-- ==== Sys2Proof/Word.lean ====
section
/-! DEFINITION. The words of the machine: the byte, the 16-bit word, the 24-bit address the core presents and the
4-bit register number of an instruction's register field (00_scope.md R6, R9; 20_memory.md R61; 30_encoding.md R95). -/

namespace Sys2Proof

/-- An 8-bit register cell or memory byte (00_scope.md R6). -/
abbrev Byte := BitVec 8

/-- A 16-bit register cell, offset or instruction word (00_scope.md R6). -/
abbrev Word := BitVec 16

/-- An absolute address as the core presents it: 24 bits (20_memory.md R61). -/
abbrev Address := BitVec 24

/-- The number of the lowest 8-bit register of an operand, as the 4-bit register field holds it (30_encoding.md R95). -/
abbrev RegNum := BitVec 4

end Sys2Proof
end

