-- ==== Sys2Proof/Config.lean ====
section
/-! DEFINITION. What the spec leaves to an implementation as an OPEN parameter (00_scope.md R8; 92_eei_decisions.md,
"Open parameters in one list"), each as a constant without a body: no proof can see its value, so a statement holds
for every value the parameter may take. The fourth parameter, `Platform`, is an argument (Machine/Platform.lean). -/

namespace Sys2Proof

/-- What the memory collaborator does with an address of 2^20 or more: refuse, or mirror, or plain memory
(00_scope.md R8; the domain of `MemHigh` in 92_eei_decisions.md). -/
inductive MemHigh where
  /-- The access is refused and the refusal is the step's outcome (00_scope.md R12). -/
  | refuse
  /-- The address is taken modulo 2^20 (DEDUCED reading of "mirror", log 3). -/
  | mirror
  /-- The bytes up to 0xFFFFFF exist like the bytes below 2^20. -/
  | plain
  deriving DecidableEq, Repr, Inhabited

/-- The domain {1, 2, 3} of `DIV0_LEVEL` (00_scope.md R8). -/
inductive ElevatedLevel where
  | one
  | two
  | three
  deriving DecidableEq, Repr, Inhabited

/-- The level number, as the two bits of PSW that hold it (10_state.md R30). -/
def ElevatedLevel.toBits : ElevatedLevel → BitVec 2
  | .one => 1
  | .two => 2
  | .three => 3

/-- OPEN parameter `MemHigh` (00_scope.md R8; log 3). -/
opaque Config.memHigh : MemHigh

/-- OPEN parameter `DIV0_LEVEL`: the level at which DIV raises its divide-by-zero exception (60_exceptions.md R346; log 4). -/
opaque Config.div0Level : ElevatedLevel

/-- OPEN parameter `DIV0_INDEX`, 0 to 127: the vector index of the divide-by-zero exception (60_exceptions.md R346; log 4). -/
opaque Config.div0Index : BitVec 7

end Sys2Proof
end

