-- ==== Sys2Proof/Machine/Memory.lean ====
section
/-! DEFINITION. The memory the collaborator holds: one space of bytes (20_memory.md R60, R62) as a list of cells in
canonical form, and the place an absolute address names (00_scope.md R8, 20_memory.md R61). -/

namespace Sys2Proof.Machine

/-- The bytes of the memory collaborator: addresses strictly rising, no cell equal to what an unlisted address reads as. -/
abbrev Memory := List Host.Cell

/-- What a byte that nothing has written reads as. DESIGN CHOICE, unsafe (log 2): the spec leaves it to the collaborator. -/
def Memory.unlisted : Byte := 0x00

/-- `ReadByte` at a place of the space (20_memory.md R60). -/
def Memory.read : Memory → Nat → Byte
  | [], _ => Memory.unlisted
  | (k, b) :: rest, a => if k = a then b else Memory.read rest a

/-- A cell in front of the cells above it, unless it holds what an unlisted address reads as. -/
def Memory.put (a : Nat) (b : Byte) (above : Memory) : Memory :=
  if b = Memory.unlisted then above else (a, b) :: above

/-- `WriteByte` at a place of the space (20_memory.md R60), keeping the canonical form. -/
def Memory.write : Memory → Nat → Byte → Memory
  | [], a, b => Memory.put a b []
  | (k, c) :: rest, a, b =>
    if a < k then Memory.put a b ((k, c) :: rest)
    else if a = k then Memory.put a b rest
    else (k, c) :: Memory.write rest a b

/-- The canonical form: addresses strictly rising, no cell equal to what an unlisted address reads as. -/
def Memory.wf : Memory → Bool
  | [] => true
  | (k, b) :: rest => b != Memory.unlisted && rest.all (fun c => k < c.1) && Memory.wf rest

/-- The size of the collaborator's key space: 2^20 addresses, or all 2^24 the core can present where `MemHigh` is
plain memory (20_memory.md R61, 00_scope.md R8). -/
def Memory.size : Nat :=
  match Config.memHigh with
  | .plain => 0x1000000
  | _ => 0x100000

/-- Every listed cell lies in the key space. -/
def Memory.inSpace (m : Memory) : Bool := m.all (fun c => c.1 < Memory.size)

/-- The place an absolute address names, none where the collaborator refuses it: addresses below 2^20 are the
collaborator's own, those above follow `MemHigh` (00_scope.md R8, 20_memory.md R61; log 3). -/
def physical (a : Address) : Option Nat :=
  if a.toNat < 0x100000 then some a.toNat
  else
    match Config.memHigh with
    | .refuse => none
    | .mirror => some (a.toNat % 0x100000)
    | .plain => some a.toNat

/-- `absoluteAddress`: `(segment << 16) | offset` (20_memory.md R61). -/
def address (seg : Byte) (off : Word) : Address := seg ++ off

/-- `MemRead(2 * index, 2)`: entry `index` of the vector table, little-endian, in segment 0 (20_memory.md R73). These
addresses lie below 2^20, so no refusal is possible. -/
def vectorEntry (m : Memory) (index : BitVec 7) : Word :=
  Memory.read m (2 * index.toNat + 1) ++ Memory.read m (2 * index.toNat)

end Sys2Proof.Machine
end

