-- ==== Sys2Proof/Machine/State.lean ====
section
/-! DEFINITION. The state of the machine as plain data, its state after reset, and the reasons a step can stop. -/

namespace Sys2Proof.Machine

/-- A call of the platform sink: `RaiseSoftwareInterrupt(index)` or `Break()` (46_interrupt.md R301, R302). -/
inductive Signal where
  | swi (index : BitVec 6)
  | brk
  deriving DecidableEq, Repr

/-- Every piece of state the spec gives the core, its memory, and the call it made to the platform (INVENTORY.md). -/
structure State where
  /-- R0 to R15; ERn, XRn and QRn are views of these cells (10_state.md R21, R22). -/
  regs : Vector Byte 16
  /-- PC, bit 0 hardwired 0 (10_state.md R25, R26). -/
  pc : Word
  /-- CSR, the code-segment register (10_state.md R25). -/
  csr : Byte
  /-- SP (10_state.md R39). -/
  sp : Word
  /-- EA, the effective-address register (10_state.md R40). -/
  ea : Word
  /-- DSR, the data-segment register (10_state.md R41). -/
  dsr : Byte
  /-- CS, the carry-staging cell (10_state.md R36). -/
  cs : Bool
  /-- ELR[0..3], the saved PC of each level; LR is ELR[0] (10_state.md R42, R43). -/
  elr : Vector Word 4
  /-- ECSR[0..3], the saved CSR of each level; LCSR is ECSR[0] (10_state.md R42, R43). -/
  ecsr : Vector Byte 4
  /-- EPSW[0..3], the saved PSW of each level; PSW is EPSW[0] (10_state.md R31, R42, R43). -/
  epsw : Vector Byte 4
  /-- `seg`, the data segment in force inside a step (10_state.md R37; log 10). -/
  seg : Byte
  /-- THE MODEL'S OWN: the call the core made to the platform sink during the latest step (log 5). -/
  signal : Option Signal
  /-- The core is stopped after a fatal outcome (10_state.md R50, 70_reset_and_hazards.md R380). -/
  stopped : Bool
  /-- The bytes the memory collaborator holds (20_memory.md R60). -/
  mem : Memory
  deriving DecidableEq, Repr

/-- Why the core stops. Each of these is safe: the model stops where the spec says that the core does. -/
inductive Fault where
  /-- Raised by a step whose first word `w` matches no row of the opcode table: `fatal UndefinedInstruction(w)`, with
  the stopped state it leaves, PC past the word and a preceding prefix's DSR written (30_encoding.md R121,
  60_exceptions.md R363; log 7). Safe. -/
  | undefinedInstruction (w : Word) (left : State)
  /-- Raised by a step of a core that a fatal outcome has stopped: nothing executes until `Reset()` (R121). Safe. -/
  | coreStopped
  /-- Raised by a step whose whole code segment holds nothing but DSR prefixes: it executes prefixes for ever
  (47_misc.md R333; log 6). Safe. -/
  | endlessPrefixes
  deriving DecidableEq, Repr

/-- Why the model gives no next state. Each of these is safe. -/
inductive Refusal where
  /-- Raised by an arm of `exec` whose instruction has no meaning yet. Safe. -/
  | notModelled (mnemonic : String)
  /-- Raised by a step that reaches an address the memory collaborator refuses, passed on unchanged (00_scope.md R12,
  20_memory.md R75; only where `MemHigh` is refuse, log 3). Safe. -/
  | memoryRefused (a : Address)
  /-- Raised by the host operation `Raise(level, index)` outside its domain (60_exceptions.md R344); no step raises it. Safe. -/
  | hostArguments (level index : Nat)
  deriving DecidableEq, Repr

/-- The outcome of one step or of one instruction. -/
abbrev Result := Host.Outcome State Fault Refusal

/-- The machine right after reset over a memory in which nothing is listed (10_state.md R50, 70_reset_and_hazards.md
R381). The registers the spec leaves unspecified hold 0: DESIGN CHOICE, unsafe (log 1). SP and PC come from the vector
table, here from bytes nothing has written (log 2). -/
def State.reset : State where
  regs := Vector.replicate 16 0x00
  pc := vectorEntry [] 1 &&& 0xFFFE
  csr := 0x00
  sp := vectorEntry [] 0
  ea := 0x0000
  dsr := 0x00
  cs := false
  elr := Vector.replicate 4 0x0000
  ecsr := Vector.replicate 4 0x00
  epsw := Vector.replicate 4 0x00
  seg := 0x00
  signal := none
  stopped := false
  mem := []

end Sys2Proof.Machine
end

