-- ==== Sys2Proof/Machine/Flags.lean ====
section
/-! DEFINITION. The fields of PSW (10_state.md R30) and every flag computation the spec gives (40_arithmetic.md R130 to
R134), as functions of values alone. -/

namespace Sys2Proof.Machine

/-! ## The fields of PSW -/

/-- Bit `k` of a byte set to `b`, every other bit kept. -/
def setBit (x : Byte) (k : Nat) (b : Bool) : Byte :=
  if b then x ||| (1#8 <<< k) else x &&& ~~~(1#8 <<< k)

/-- C, mask 0x80 (10_state.md R30). -/
def pswC (p : Byte) : Bool := p.getLsbD 7
/-- Z, mask 0x40. -/
def pswZ (p : Byte) : Bool := p.getLsbD 6
/-- S, mask 0x20. -/
def pswS (p : Byte) : Bool := p.getLsbD 5
/-- OV, mask 0x10. -/
def pswOV (p : Byte) : Bool := p.getLsbD 4
/-- MIE, mask 0x08. -/
def pswMIE (p : Byte) : Bool := p.getLsbD 3
/-- HC, mask 0x04. -/
def pswHC (p : Byte) : Bool := p.getLsbD 2
/-- ELEVEL, mask 0x03. -/
def pswLevel (p : Byte) : BitVec 2 := p.extractLsb' 0 2

/-- PSW with C replaced. -/
def withC (p : Byte) (b : Bool) : Byte := setBit p 7 b
/-- PSW with Z replaced. -/
def withZ (p : Byte) (b : Bool) : Byte := setBit p 6 b
/-- PSW with S replaced. -/
def withS (p : Byte) (b : Bool) : Byte := setBit p 5 b
/-- PSW with OV replaced. -/
def withOV (p : Byte) (b : Bool) : Byte := setBit p 4 b
/-- PSW with MIE replaced. -/
def withMIE (p : Byte) (b : Bool) : Byte := setBit p 3 b
/-- PSW with HC replaced. -/
def withHC (p : Byte) (b : Bool) : Byte := setBit p 2 b
/-- PSW with ELEVEL replaced. -/
def withLevel (p : Byte) (l : BitVec 2) : Byte := p.extractLsb' 2 6 ++ l

/-- PSW from its fields, in the order of its bits (10_state.md R30). -/
def packPsw (c z s ov mie hc : Bool) (level : BitVec 2) : Byte :=
  BitVec.ofBool c ++ BitVec.ofBool z ++ BitVec.ofBool s ++ BitVec.ofBool ov ++ BitVec.ofBool mie ++ BitVec.ofBool hc ++ level

/-! ## The add and subtract helpers -/

/-- The five flags of the shared add and subtract helper (40_arithmetic.md R130). -/
structure Flags where
  c : Bool
  z : Bool
  s : Bool
  ov : Bool
  hc : Bool
  deriving DecidableEq, Repr

/-- All five flags written into PSW (10_state.md R32). -/
def withArith (p : Byte) (f : Flags) : Byte :=
  withHC (withOV (withS (withZ (withC p f.c) f.z) f.s) f.ov) f.hc

/-- Z, S, OV and HC written into PSW, C suppressed: INC [EA] and DEC [EA] (10_state.md R32, R34). -/
def withArithKeepC (p : Byte) (f : Flags) : Byte :=
  withHC (withOV (withS (withZ p f.z) f.s) f.ov) f.hc

/-- Z and S of a value written into PSW: `zs8`, `zs16`, `zsN` (40_arithmetic.md R134). -/
def withZS (p : Byte) {w : Nat} (v : BitVec w) : Byte :=
  withS (withZ p (v == 0#w)) v.msb

/-- Addition at width `w` with its five flags; the half-carry leaves bit `h - 1` (40_arithmetic.md R130, R132). -/
def addFlags (h : Nat) {w : Nat} (a b : BitVec w) (cin : Bool) : BitVec w × Flags :=
  let sum := a.toNat + b.toNat + cin.toNat
  let r := BitVec.ofNat w sum
  (r, { c := decide (2 ^ w ≤ sum)
        z := r == 0#w
        s := r.msb
        ov := a.msb == b.msb && r.msb != a.msb
        hc := decide (2 ^ h ≤ a.toNat % 2 ^ h + b.toNat % 2 ^ h + cin.toNat) })

/-- Subtraction at width `w` with its five flags, C and HC being borrows (40_arithmetic.md R131, R133). -/
def subFlags (h : Nat) {w : Nat} (a b : BitVec w) (bin : Bool) : BitVec w × Flags :=
  let diff : Int := (a.toNat : Int) - b.toNat - bin.toNat
  let r := BitVec.ofInt w diff
  (r, { c := decide (diff < 0)
        z := r == 0#w
        s := r.msb
        ov := a.msb != b.msb && r.msb != a.msb
        hc := decide (((a.toNat % 2 ^ h : Nat) : Int) - ((b.toNat % 2 ^ h : Nat) : Int) - bin.toNat < 0) })

/-- `add8` (40_arithmetic.md R130). -/
def add8 (a b : Byte) (cin : Bool) : Byte × Flags := addFlags 4 a b cin
/-- `sub8` (40_arithmetic.md R131). -/
def sub8 (a b : Byte) (bin : Bool) : Byte × Flags := subFlags 4 a b bin
/-- `add16` (40_arithmetic.md R132). -/
def add16 (a b : Word) : Word × Flags := addFlags 12 a b false
/-- `sub16` (40_arithmetic.md R133). -/
def sub16 (a b : Word) : Word × Flags := subFlags 12 a b false

end Sys2Proof.Machine
end

