-- ==== Sys2Proof/Machine/Ops.lean ====
section
/-! DEFINITION. The named operations over registers and memory: reads and writes of every cell, register groups, data
accesses, the stack, taking an exception and returning from one, and reset. -/

namespace Sys2Proof.Machine

/-! ## Registers -/

/-- `R[n]` (10_state.md R21). -/
def State.r (s : State) (n : RegNum) : Byte := s.regs[n.toNat]'n.isLt

/-- `R[n] <- v` (10_state.md R21). -/
def State.setR (s : State) (n : RegNum) (v : Byte) : State := { s with regs := s.regs.set n.toNat v n.isLt }

/-- `Reg(k, n)`: the k-byte group starting at R[n], `R[n+k-1] : ... : R[n]` (10_state.md R22, R23). -/
def State.group (s : State) : (k : Nat) → RegNum → BitVec (8 * k)
  | 0, _ => 0#0
  | k + 1, n => s.group k (n + 1) ++ s.r n

/-- `Reg(k, n) <- v`: lowest byte to lowest register number (10_state.md R22). -/
def State.setGroup (s : State) : (k : Nat) → RegNum → BitVec (8 * k) → State
  | 0, _, _ => s
  | k + 1, n, v => (s.setR n (v.extractLsb' 0 8)).setGroup k (n + 1) (v.extractLsb' 8 (8 * k))

/-- `ER[n]` (10_state.md R22). -/
def State.er (s : State) (n : RegNum) : Word := s.group 2 n

/-- `ER[n] <- v` (10_state.md R22). -/
def State.setEr (s : State) (n : RegNum) (v : Word) : State := s.setGroup 2 n v

/-- `pc <- v`: bit 0 is hardwired 0 (10_state.md R26). -/
def State.setPc (s : State) (v : Word) : State := { s with pc := v &&& 0xFFFE }

/-- `CSR <- v` (10_state.md R25). -/
def State.setCsr (s : State) (v : Byte) : State := { s with csr := v }

/-- `SP <- v`: no alignment is forced (10_state.md R39). -/
def State.setSp (s : State) (v : Word) : State := { s with sp := v }

/-- `EA <- v` (10_state.md R40). -/
def State.setEa (s : State) (v : Word) : State := { s with ea := v }

/-- `DSR <- v` (10_state.md R41). -/
def State.setDsr (s : State) (v : Byte) : State := { s with dsr := v }

/-- `CS <- b` (10_state.md R36). -/
def State.setCs (s : State) (b : Bool) : State := { s with cs := b }

/-- `seg <- v` (10_state.md R37). -/
def State.setSeg (s : State) (v : Byte) : State := { s with seg := v }

/-- The call the core made to the platform sink in this step (46_interrupt.md R301, R302; log 5). -/
def State.setSignal (s : State) (x : Option Signal) : State := { s with signal := x }

/-- The terminal condition after a fatal outcome (10_state.md R38; log 7). -/
def State.setStopped (s : State) (b : Bool) : State := { s with stopped := b }

/-- The memory collaborator's bytes. -/
def State.setMem (s : State) (m : Memory) : State := { s with mem := m }

/-! ## The banked exception context (10_state.md R42 to R45) -/

/-- `ELR[l]`; `ELR[0]` is LR. -/
def State.elrOf (s : State) (l : BitVec 2) : Word := s.elr[l.toNat]'l.isLt
/-- `ECSR[l]`; `ECSR[0]` is LCSR. -/
def State.ecsrOf (s : State) (l : BitVec 2) : Byte := s.ecsr[l.toNat]'l.isLt
/-- `EPSW[l]`; `EPSW[0]` is PSW. -/
def State.epswOf (s : State) (l : BitVec 2) : Byte := s.epsw[l.toNat]'l.isLt
/-- `ELR[l] <- v`. -/
def State.setElr (s : State) (l : BitVec 2) (v : Word) : State := { s with elr := s.elr.set l.toNat v l.isLt }
/-- `ECSR[l] <- v`. -/
def State.setEcsr (s : State) (l : BitVec 2) (v : Byte) : State := { s with ecsr := s.ecsr.set l.toNat v l.isLt }
/-- `EPSW[l] <- v`. -/
def State.setEpsw (s : State) (l : BitVec 2) (v : Byte) : State := { s with epsw := s.epsw.set l.toNat v l.isLt }

/-- LR, the alias of ELR[0] (10_state.md R43). -/
def State.lr (s : State) : Word := s.elrOf 0
/-- LCSR, the alias of ECSR[0] (10_state.md R43). -/
def State.lcsr (s : State) : Byte := s.ecsrOf 0
/-- PSW, the alias of EPSW[0] (10_state.md R31, R43). -/
def State.psw (s : State) : Byte := s.epswOf 0
/-- `PSW <- p`, all eight bits (10_state.md R30). -/
def State.setPsw (s : State) (p : Byte) : State := s.setEpsw 0 p
/-- `LR <- pc; LCSR <- csr`: the linkage of a call, always bank 0 (45_branch.md R284). -/
def State.setLink (s : State) (lr : Word) (lcsr : Byte) : State := (s.setElr 0 lr).setEcsr 0 lcsr

/-- ELEVEL, the active bank (10_state.md R44). -/
def State.level (s : State) : BitVec 2 := pswLevel s.psw
/-- C. -/
def State.c (s : State) : Bool := pswC s.psw
/-- Z. -/
def State.z (s : State) : Bool := pswZ s.psw
/-- S. -/
def State.sgn (s : State) : Bool := pswS s.psw
/-- OV. -/
def State.ov (s : State) : Bool := pswOV s.psw
/-- HC. -/
def State.hc (s : State) : Bool := pswHC s.psw

/-- The five flags of the add and subtract helper committed to PSW. -/
def State.setArith (s : State) (f : Flags) : State := s.setPsw (withArith s.psw f)
/-- Z and S of a result committed to PSW (40_arithmetic.md R134). -/
def State.setZS (s : State) {w : Nat} (v : BitVec w) : State := s.setPsw (withZS s.psw v)
/-- C committed to PSW. -/
def State.setC (s : State) (b : Bool) : State := s.setPsw (withC s.psw b)
/-- Z committed to PSW. -/
def State.setZ (s : State) (b : Bool) : State := s.setPsw (withZ s.psw b)
/-- MIE committed to PSW. -/
def State.setMIE (s : State) (b : Bool) : State := s.setPsw (withMIE s.psw b)

/-! ## Memory accesses (20_memory.md R60, R61, R63, R66, R67) -/

/-- `ReadByte(absoluteAddress)`, or the collaborator's refusal (20_memory.md R60, 00_scope.md R12). -/
def readByte (m : Memory) (a : Address) : Except Refusal Byte :=
  match physical a with
  | some k => .ok (Memory.read m k)
  | none => .error (.memoryRefused a)

/-- `WriteByte(absoluteAddress, byte)`, or the collaborator's refusal (20_memory.md R60, 00_scope.md R12). -/
def writeByte (m : Memory) (a : Address) (b : Byte) : Except Refusal Memory :=
  match physical a with
  | some k => .ok (Memory.write m k b)
  | none => .error (.memoryRefused a)

/-- `DataRead(seg, off, k)`: ascending offsets that wrap inside the segment, little-endian (20_memory.md R65, R66). -/
def dataRead (m : Memory) (seg : Byte) : (k : Nat) → Word → Except Refusal (BitVec (8 * k))
  | 0, _ => .ok 0#0
  | k + 1, off => do
    let b ← readByte m (address seg off)
    let rest ← dataRead m seg k (off + 1)
    .ok (rest ++ b)

/-- `DataWrite(seg, off, k, v)`: ascending offsets that wrap inside the segment, little-endian (20_memory.md R65, R67). -/
def dataWrite (m : Memory) (seg : Byte) : (k : Nat) → Word → BitVec (8 * k) → Except Refusal Memory
  | 0, _, _ => .ok m
  | k + 1, off, v => do
    let m' ← writeByte m (address seg off) (v.extractLsb' 0 8)
    dataWrite m' seg k (off + 1) (v.extractLsb' 8 (8 * k))

/-- The k bytes of a value written from the highest offset down to the lowest: PUSH of a register group (20_memory.md
R67, 43_stack.md R230). -/
def dataWriteDown (m : Memory) (seg : Byte) (off : Word) : (k : Nat) → BitVec (8 * k) → Except Refusal Memory
  | 0, _ => .ok m
  | k + 1, v => do
    let m' ← writeByte m (address seg (off + BitVec.ofNat 16 k)) (v.extractLsb' (8 * k) 8)
    dataWriteDown m' seg off k (v.extractLsb' 0 (8 * k))

/-- An instruction's outcome from its memory accesses: the collaborator's refusal is passed on (00_scope.md R12). -/
def finish : Except Refusal State → Result
  | .ok s => .next s
  | .error r => .refused r

/-! ## The stack (43_stack.md R230) -/

/-- By how much a k-byte push or pop moves SP: units of 2 bytes (43_stack.md R230, R231). -/
def stackBytes (k : Nat) : Word := if k = 1 then 2 else BitVec.ofNat 16 k

/-- `push16(v)` (43_stack.md R230). -/
def push16 (v : Word) (s : State) : Except Refusal State := do
  let sp := s.sp - 2
  let m ← dataWrite s.mem 0 2 sp v
  .ok ((s.setSp sp).setMem m)

/-- `pop16()` (43_stack.md R230). -/
def pop16 (s : State) : Except Refusal (Word × State) := do
  let v ← dataRead s.mem 0 2 s.sp
  .ok (v, s.setSp (s.sp + 2))

/-- PUSH of the k-byte group at R[n]: SP first, then the bytes downwards (43_stack.md R230 to R234). -/
def pushGroup (k : Nat) (n : RegNum) (s : State) : Except Refusal State := do
  let sp := s.sp - stackBytes k
  let m ← dataWriteDown s.mem 0 sp k (s.group k n)
  .ok ((s.setSp sp).setMem m)

/-- POP of the k-byte group at R[n]: the bytes upwards, then SP, then the register write-back (43_stack.md R230, R236 to R239). -/
def popGroup (k : Nat) (n : RegNum) (s : State) : Except Refusal State := do
  let v ← dataRead s.mem 0 k s.sp
  .ok ((s.setSp (s.sp + stackBytes k)).setGroup k n v)

/-! ## Exceptions (60_exceptions.md R341 to R343, 46_interrupt.md R300) -/

/-- PSW after `Raise(level, _)`: ELEVEL is the level, and level 1 clears MIE (60_exceptions.md R341, R343). -/
def pswOnEntry (level : BitVec 2) (p : Byte) : Byte :=
  if level = 1 then withMIE (withLevel p level) false else withLevel p level

/-- `Raise(level, index)` in the order of 60_exceptions.md R341: PC and CSR into the bank of `level`, PSW too above
level 0, ELEVEL and MIE, CSR 0, and PC from the vector table (R342). The domain of R344 is in the arguments' types. -/
def takeException (level : BitVec 2) (index : BitVec 7) (s : State) : State :=
  let saved := (s.setElr level s.pc).setEcsr level s.csr
  let saved := if level = 0 then saved else saved.setEpsw level s.psw
  ((saved.setPsw (pswOnEntry level s.psw)).setCsr 0).setPc (vectorEntry s.mem index)

/-- Return from an exception: CSR, PC and PSW from the bank of the current level, all three read with the old level
(46_interrupt.md R300). -/
def returnFromException (s : State) : State :=
  let lv := s.level
  ((s.setCsr (s.ecsrOf lv)).setPc (s.elrOf lv)).setPsw (s.epswOf lv)

/-! ## Reset (70_reset_and_hazards.md R380 to R382) -/

/-- `Reset()`: SP and PC from vector entries 0 and 1, DSR, PSW, CSR and CS zero, the core runs again; the registers R382
leaves unspecified keep what they held (10_state.md R50; log 13), no bank but PSW and no byte of memory is written. -/
def State.hostReset (s : State) : State :=
  ((((((s.setSp (vectorEntry s.mem 0)).setDsr 0).setPsw 0x00).setCsr 0).setCs false).setPc (vectorEntry s.mem 1)
    |>.setStopped false |>.setSeg 0 |>.setSignal none)

end Sys2Proof.Machine
end

