-- ==== Sys2Proof/Syntax.lean ====
section
/-! DEFINITION. The instructions: one constructor for each row of spec/opcode_table.json, in the table's order. A
register operand is the number of its lowest 8-bit register, as the encoding's register field holds it (30_encoding.md
R95); which numbers are legal is `Instr.wellFormed` (WellFormed.lean). `disp` and `imm` fields hold the encoding's bits,
not yet extended (30_encoding.md R97). -/

namespace Sys2Proof

/-- The sixteen condition codes of the conditional branch, in the order of their numbers (45_branch.md R281). -/
inductive Cond where
  /-- C = 0 -/
  | ge
  /-- C = 1 -/
  | lt
  /-- (Z or C) = 0 -/
  | gt
  /-- (Z or C) = 1 -/
  | le
  /-- (OV xor S) = 0 -/
  | ges
  /-- (OV xor S) = 1 -/
  | lts
  /-- ((OV xor S) or Z) = 0 -/
  | gts
  /-- ((OV xor S) or Z) = 1 -/
  | les
  /-- Z = 0 -/
  | ne
  /-- Z = 1 -/
  | eq
  /-- OV = 0 -/
  | nv
  /-- OV = 1 -/
  | ov
  /-- S = 0 -/
  | ps
  /-- S = 1 -/
  | ns
  /-- always -/
  | al
  /-- always; number 15, which has no mnemonic of its own -/
  | al15
  deriving DecidableEq, Repr

/-- One instruction of the core. -/
inductive Instr where
  /-- R135: ADD Rn, Rm -/
  | addRnRm (n m : RegNum)
  /-- R136: ADD Rn, #imm8 -/
  | addRnImm8 (n : RegNum) (imm : Byte)
  /-- R137: ADD ERn, ERm -/
  | addERnERm (n m : RegNum)
  /-- R138: ADD ERn, #imm7 -/
  | addERnImm7 (n : RegNum) (imm : BitVec 7)
  /-- R139: ADDC Rn, Rm -/
  | addcRnRm (n m : RegNum)
  /-- R140: ADDC Rn, #imm8 -/
  | addcRnImm8 (n : RegNum) (imm : Byte)
  /-- R141: AND Rn, Rm -/
  | andRnRm (n m : RegNum)
  /-- R142: AND Rn, #imm8 -/
  | andRnImm8 (n : RegNum) (imm : Byte)
  /-- R143: CMP Rn, Rm -/
  | cmpRnRm (n m : RegNum)
  /-- R144: CMP Rn, #imm8 -/
  | cmpRnImm8 (n : RegNum) (imm : Byte)
  /-- R145: CMPC Rn, Rm -/
  | cmpcRnRm (n m : RegNum)
  /-- R146: CMPC Rn, #imm8 -/
  | cmpcRnImm8 (n : RegNum) (imm : Byte)
  /-- R147: MOV ERn, ERm -/
  | movERnERm (n m : RegNum)
  /-- R148: MOV ERn, #imm7 -/
  | movERnImm7 (n : RegNum) (imm : BitVec 7)
  /-- R149: MOV Rn, Rm -/
  | movRnRm (n m : RegNum)
  /-- R150: MOV Rn, #imm8 -/
  | movRnImm8 (n : RegNum) (imm : Byte)
  /-- R151: OR Rn, Rm -/
  | orRnRm (n m : RegNum)
  /-- R152: OR Rn, #imm8 -/
  | orRnImm8 (n : RegNum) (imm : Byte)
  /-- R153: XOR Rn, Rm -/
  | xorRnRm (n m : RegNum)
  /-- R154: XOR Rn, #imm8 -/
  | xorRnImm8 (n : RegNum) (imm : Byte)
  /-- R155: CMP ERn, ERm -/
  | cmpERnERm (n m : RegNum)
  /-- R156: SUB Rn, Rm -/
  | subRnRm (n m : RegNum)
  /-- R157: SUBC Rn, Rm -/
  | subcRnRm (n m : RegNum)
  /-- R171: SLL Rn, Rm -/
  | sllRnRm (n m : RegNum)
  /-- R172: SLL Rn, #width -/
  | sllRnWidth (n : RegNum) (w : BitVec 3)
  /-- R173: SLLC Rn, Rm -/
  | sllcRnRm (n m : RegNum)
  /-- R174: SLLC Rn, #width -/
  | sllcRnWidth (n : RegNum) (w : BitVec 3)
  /-- R175: SRA Rn, Rm -/
  | sraRnRm (n m : RegNum)
  /-- R176: SRA Rn, #width -/
  | sraRnWidth (n : RegNum) (w : BitVec 3)
  /-- R177: SRL Rn, Rm -/
  | srlRnRm (n m : RegNum)
  /-- R178: SRL Rn, #width -/
  | srlRnWidth (n : RegNum) (w : BitVec 3)
  /-- R179: SRLC Rn, Rm -/
  | srlcRnRm (n m : RegNum)
  /-- R180: SRLC Rn, #width -/
  | srlcRnWidth (n : RegNum) (w : BitVec 3)
  /-- R189: L ERn, [EA] -/
  | lERnEA (n : RegNum)
  /-- R190: L ERn, [EA+] -/
  | lERnEAInc (n : RegNum)
  /-- R191: L ERn, [ERm] -/
  | lERnERm (n m : RegNum)
  /-- R192: L ERn, Disp16[ERm] -/
  | lERnDisp16ERm (n m : RegNum) (d : Word)
  /-- R193: L ERn, Disp6[BP] -/
  | lERnDisp6BP (n : RegNum) (d : BitVec 6)
  /-- R194: L ERn, Disp6[FP] -/
  | lERnDisp6FP (n : RegNum) (d : BitVec 6)
  /-- R195: L ERn, Dadr -/
  | lERnDadr (n : RegNum) (a : Word)
  /-- R196: L Rn, [EA] -/
  | lRnEA (n : RegNum)
  /-- R197: L Rn, [EA+] -/
  | lRnEAInc (n : RegNum)
  /-- R198: L Rn, [ERm] -/
  | lRnERm (n m : RegNum)
  /-- R199: L Rn, Disp16[ERm] -/
  | lRnDisp16ERm (n m : RegNum) (d : Word)
  /-- R200: L Rn, Disp6[BP] -/
  | lRnDisp6BP (n : RegNum) (d : BitVec 6)
  /-- R201: L Rn, Disp6[FP] -/
  | lRnDisp6FP (n : RegNum) (d : BitVec 6)
  /-- R202: L Rn, Dadr -/
  | lRnDadr (n : RegNum) (a : Word)
  /-- R203: L XRn, [EA] -/
  | lXRnEA (n : RegNum)
  /-- R204: L XRn, [EA+] -/
  | lXRnEAInc (n : RegNum)
  /-- R205: L QRn, [EA] -/
  | lQRnEA (n : RegNum)
  /-- R206: L QRn, [EA+] -/
  | lQRnEAInc (n : RegNum)
  /-- R207: ST ERn, [EA] -/
  | stERnEA (n : RegNum)
  /-- R208: ST ERn, [EA+] -/
  | stERnEAInc (n : RegNum)
  /-- R209: ST ERn, [ERm] -/
  | stERnERm (n m : RegNum)
  /-- R210: ST ERn, Disp16[ERm] -/
  | stERnDisp16ERm (n m : RegNum) (d : Word)
  /-- R211: ST ERn, Disp6[BP] -/
  | stERnDisp6BP (n : RegNum) (d : BitVec 6)
  /-- R212: ST ERn, Disp6[FP] -/
  | stERnDisp6FP (n : RegNum) (d : BitVec 6)
  /-- R213: ST ERn, Dadr -/
  | stERnDadr (n : RegNum) (a : Word)
  /-- R214: ST Rn, [EA] -/
  | stRnEA (n : RegNum)
  /-- R215: ST Rn, [EA+] -/
  | stRnEAInc (n : RegNum)
  /-- R216: ST Rn, [ERm] -/
  | stRnERm (n m : RegNum)
  /-- R217: ST Rn, Disp16[ERm] -/
  | stRnDisp16ERm (n m : RegNum) (d : Word)
  /-- R218: ST Rn, Disp6[BP] -/
  | stRnDisp6BP (n : RegNum) (d : BitVec 6)
  /-- R219: ST Rn, Disp6[FP] -/
  | stRnDisp6FP (n : RegNum) (d : BitVec 6)
  /-- R220: ST Rn, Dadr -/
  | stRnDadr (n : RegNum) (a : Word)
  /-- R221: ST XRn, [EA] -/
  | stXRnEA (n : RegNum)
  /-- R222: ST XRn, [EA+] -/
  | stXRnEAInc (n : RegNum)
  /-- R223: ST QRn, [EA] -/
  | stQRnEA (n : RegNum)
  /-- R224: ST QRn, [EA+] -/
  | stQRnEAInc (n : RegNum)
  /-- R231: PUSH Rn -/
  | pushRn (n : RegNum)
  /-- R232: PUSH ERn -/
  | pushERn (n : RegNum)
  /-- R233: PUSH XRn -/
  | pushXRn (n : RegNum)
  /-- R234: PUSH QRn -/
  | pushQRn (n : RegNum)
  /-- R235: PUSH register_list -/
  | pushList (l e p a : Bool)
  /-- R236: POP Rn -/
  | popRn (n : RegNum)
  /-- R237: POP ERn -/
  | popERn (n : RegNum)
  /-- R238: POP XRn -/
  | popXRn (n : RegNum)
  /-- R239: POP QRn -/
  | popQRn (n : RegNum)
  /-- R240: POP register_list -/
  | popList (l e p a : Bool)
  /-- R251: MOV ECSR, Rm -/
  | movECSRRm (m : RegNum)
  /-- R252: MOV EPSW, Rm -/
  | movEPSWRm (m : RegNum)
  /-- R253: MOV ELR, ERm -/
  | movELRERm (m : RegNum)
  /-- R254: MOV ERn, ELR -/
  | movERnELR (n : RegNum)
  /-- R255: MOV Rn, EPSW -/
  | movRnEPSW (n : RegNum)
  /-- R256: MOV PSW, Rm -/
  | movPSWRm (m : RegNum)
  /-- R257: MOV PSW, #imm8 -/
  | movPSWImm8 (imm : Byte)
  /-- R258: MOV Rn, ECSR -/
  | movRnECSR (n : RegNum)
  /-- R259: MOV Rn, PSW -/
  | movRnPSW (n : RegNum)
  /-- R260: MOV ERn, SP -/
  | movERnSP (n : RegNum)
  /-- R261: MOV SP, ERm -/
  | movSPERm (m : RegNum)
  /-- R262: ADD SP, #signed8 -/
  | addSPImm8 (imm : Byte)
  /-- R263: LEA [ERm] -/
  | leaERm (m : RegNum)
  /-- R264: LEA Disp16[ERm] -/
  | leaDisp16ERm (m : RegNum) (d : Word)
  /-- R265: LEA Dadr -/
  | leaDadr (a : Word)
  /-- R266: EI -/
  | ei
  /-- R267: DI -/
  | di
  /-- R268: SC -/
  | sc
  /-- R269: RC -/
  | rc
  /-- R270: CPLC -/
  | cplc
  /-- R282: Bcond Radr -/
  | bcond (c : Cond) (r : Byte)
  /-- R283: B Cadr -/
  | bCadr (g : BitVec 4) (a : Word)
  /-- R284: BL Cadr -/
  | blCadr (g : BitVec 4) (a : Word)
  /-- R285: B ERn -/
  | bERn (n : RegNum)
  /-- R286: BL ERn -/
  | blERn (n : RegNum)
  /-- R287: RT -/
  | rt
  /-- R300: RTI -/
  | rti
  /-- R301: SWI #snum -/
  | swi (k : BitVec 6)
  /-- R302: BRK -/
  | brk
  /-- R310: MUL ERn, Rm -/
  | mulERnRm (n m : RegNum)
  /-- R311: DIV ERn, Rm -/
  | divERnRm (n m : RegNum)
  /-- R312: NEG Rn -/
  | negRn (n : RegNum)
  /-- R313: DAA Rn -/
  | daaRn (n : RegNum)
  /-- R314: DAS Rn -/
  | dasRn (n : RegNum)
  /-- R315: EXTBW ER0 -/
  | extbwER0
  /-- R315: EXTBW ER2 -/
  | extbwER2
  /-- R315: EXTBW ER4 -/
  | extbwER4
  /-- R315: EXTBW ER6 -/
  | extbwER6
  /-- R315: EXTBW ER8 -/
  | extbwER8
  /-- R315: EXTBW ER10 -/
  | extbwER10
  /-- R315: EXTBW ER12 -/
  | extbwER12
  /-- R315: EXTBW ER14 -/
  | extbwER14
  /-- R316: INC [EA] -/
  | incEA
  /-- R317: DEC [EA] -/
  | decEA
  /-- R318: SB Rn.bit -/
  | sbRn (n : RegNum) (b : BitVec 3)
  /-- R319: SB Dbitadr -/
  | sbDbitadr (b : BitVec 3) (a : Word)
  /-- R320: RB Rn.bit -/
  | rbRn (n : RegNum) (b : BitVec 3)
  /-- R321: RB Dbitadr -/
  | rbDbitadr (b : BitVec 3) (a : Word)
  /-- R322: TB Rn.bit -/
  | tbRn (n : RegNum) (b : BitVec 3)
  /-- R323: TB Dbitadr -/
  | tbDbitadr (b : BitVec 3) (a : Word)
  /-- R324: NOP -/
  | nop
  /-- R330: DSR prefix: #imm8 (written imm8:) -/
  | dsrImm8 (imm : Byte)
  /-- R331: DSR prefix: Rd (written Rd:) -/
  | dsrRd (d : RegNum)
  /-- R332: DSR prefix: DSR (written DSR:) -/
  | dsrDSR
  deriving DecidableEq, Repr

/-- The three DSR prefixes, the rows that carry hint DS: after them the step goes on (30_encoding.md R96, 47_misc.md R333). -/
def Instr.isDsrPrefix : Instr → Bool
  | .dsrImm8 _ => true
  | .dsrRd _ => true
  | .dsrDSR => true
  | _ => false

end Sys2Proof
end

