-- ==== Sys2Proof/Machine/Operands.lean ====
section
/-! DEFINITION. Every operand form: immediates and their extension (30_encoding.md R97), the offsets of the addressing
modes and the post-increment (42_load_store.md R186, R187), shift counts, and the conditions of Bcond (45_branch.md R281). -/

namespace Sys2Proof.Machine

/-! ## Immediates (30_encoding.md R97) -/

/-- `sext_7` to 16 bits: `#imm7`. -/
def sext7 (x : BitVec 7) : Word := x.signExtend 16
/-- `sext_6` to 16 bits: `Disp6`, not scaled. -/
def sext6 (x : BitVec 6) : Word := x.signExtend 16
/-- `sext_8` to 16 bits: `#signed8`. -/
def sext8 (x : Byte) : Word := x.signExtend 16
/-- The displacement of Bcond: `sext_8`, shifted left by one (45_branch.md R282). -/
def branchDisp (x : Byte) : Word := sext8 x <<< 1
/-- The segment of B Cadr and BL Cadr in the 8-bit CSR: the upper four bits become 0 (45_branch.md R283). -/
def segField (g : BitVec 4) : Byte := g.zeroExtend 8

/-! ## Addressing modes (42_load_store.md R186): offsets, changing no flag -/

/-- `[EA]`, and `[EA+]` before the bump. -/
def offEA (s : State) : Word := s.ea
/-- `[ERm]`. -/
def offReg (m : RegNum) (s : State) : Word := s.er m
/-- `Disp16[ERm]`. -/
def offDisp16 (m : RegNum) (d : Word) (s : State) : Word := s.er m + d
/-- `Disp6[BP]`; BP is ER12 (10_state.md R24). -/
def offBP (d : BitVec 6) (s : State) : Word := s.er 12 + sext6 d
/-- `Disp6[FP]`; FP is ER14 (10_state.md R24). -/
def offFP (d : BitVec 6) (s : State) : Word := s.er 14 + sext6 d

/-- `Dadr`: the second word. -/
def offDadr (a : Word) (_ : State) : Word := a

/-- `bump(EA, k)`: EA plus the access width, bit 0 then cleared for widths other than 1 (42_load_store.md R187). -/
def bump (k : Nat) (ea : Word) : Word := if k = 1 then ea + 1 else (ea + BitVec.ofNat 16 k) &&& 0xFFFE

/-- The count of a register-count shift: `R[m][2:0]` (41_shift.md R170). -/
def regCount (m : RegNum) (s : State) : BitVec 3 := (s.r m).extractLsb' 0 3

/-- Whether a condition code is met by the flags of a PSW (45_branch.md R281). -/
def condHolds (c : Cond) (p : Byte) : Bool :=
  match c with
  | .ge => !pswC p
  | .lt => pswC p
  | .gt => !(pswZ p || pswC p)
  | .le => pswZ p || pswC p
  | .ges => !(pswOV p ^^ pswS p)
  | .lts => pswOV p ^^ pswS p
  | .gts => !((pswOV p ^^ pswS p) || pswZ p)
  | .les => (pswOV p ^^ pswS p) || pswZ p
  | .ne => !pswZ p
  | .eq => pswZ p
  | .nv => !pswOV p
  | .ov => pswOV p
  | .ps => !pswS p
  | .ns => pswS p
  | .al => true
  | .al15 => true

end Sys2Proof.Machine
end

