-- ==== Sys2Proof/Machine/Arith.lean ====
section
/-! DEFINITION. The arithmetic, logic and move instructions (40_arithmetic.md). All operands are read before anything is
written, and the write-back comes last (30_encoding.md R92). -/

namespace Sys2Proof.Machine

/-! ## Shared effects -/

/-- An 8-bit result of the add and subtract helper: its flags, then the write-back to R[n]. -/
def arithR (n : RegNum) (x : Byte × Flags) (s : State) : State := (s.setArith x.2).setR n x.1

/-- A 16-bit result of the add helper: its flags, then the write-back to ER[n]. -/
def arithER (n : RegNum) (x : Word × Flags) (s : State) : State := (s.setArith x.2).setEr n x.1

/-- An 8-bit result that writes Z and S alone (40_arithmetic.md R134), then the write-back to R[n]. -/
def logicR (n : RegNum) (v : Byte) (s : State) : State := (s.setZS v).setR n v

/-- A 16-bit result that writes Z and S alone (40_arithmetic.md R134), then the write-back to ER[n]. -/
def logicER (n : RegNum) (v : Word) (s : State) : State := (s.setZS v).setEr n v

/-! ## The instructions -/

/-- R135 ADD Rn, Rm. -/
def execAddRnRm (n m : RegNum) (s : State) : Result :=
  .next (arithR n (add8 (s.r n) (s.r m) false) s)

/-- R136 ADD Rn, #imm8. -/
def execAddRnImm8 (n : RegNum) (imm : Byte) (s : State) : Result :=
  .next (arithR n (add8 (s.r n) imm false) s)

/-- R139 ADDC Rn, Rm. -/
def execAddcRnRm (n m : RegNum) (s : State) : Result :=
  .next (arithR n (add8 (s.r n) (s.r m) s.c) s)

/-- R140 ADDC Rn, #imm8. -/
def execAddcRnImm8 (n : RegNum) (imm : Byte) (s : State) : Result :=
  .next (arithR n (add8 (s.r n) imm s.c) s)

/-- R156 SUB Rn, Rm. -/
def execSubRnRm (n m : RegNum) (s : State) : Result :=
  .next (arithR n (sub8 (s.r n) (s.r m) false) s)

/-- R157 SUBC Rn, Rm. -/
def execSubcRnRm (n m : RegNum) (s : State) : Result :=
  .next (arithR n (sub8 (s.r n) (s.r m) s.c) s)

/-- R143 CMP Rn, Rm: flags only. -/
def execCmpRnRm (n m : RegNum) (s : State) : Result :=
  .next (s.setArith (sub8 (s.r n) (s.r m) false).2)

/-- R144 CMP Rn, #imm8: flags only. -/
def execCmpRnImm8 (n : RegNum) (imm : Byte) (s : State) : Result :=
  .next (s.setArith (sub8 (s.r n) imm false).2)

/-- R145 CMPC Rn, Rm: flags only. -/
def execCmpcRnRm (n m : RegNum) (s : State) : Result :=
  .next (s.setArith (sub8 (s.r n) (s.r m) s.c).2)

/-- R146 CMPC Rn, #imm8: flags only. -/
def execCmpcRnImm8 (n : RegNum) (imm : Byte) (s : State) : Result :=
  .next (s.setArith (sub8 (s.r n) imm s.c).2)

/-- R141 AND Rn, Rm. -/
def execAndRnRm (n m : RegNum) (s : State) : Result :=
  .next (logicR n (s.r n &&& s.r m) s)

/-- R142 AND Rn, #imm8. -/
def execAndRnImm8 (n : RegNum) (imm : Byte) (s : State) : Result :=
  .next (logicR n (s.r n &&& imm) s)

/-- R151 OR Rn, Rm. -/
def execOrRnRm (n m : RegNum) (s : State) : Result :=
  .next (logicR n (s.r n ||| s.r m) s)

/-- R152 OR Rn, #imm8. -/
def execOrRnImm8 (n : RegNum) (imm : Byte) (s : State) : Result :=
  .next (logicR n (s.r n ||| imm) s)

/-- R153 XOR Rn, Rm. -/
def execXorRnRm (n m : RegNum) (s : State) : Result :=
  .next (logicR n (s.r n ^^^ s.r m) s)

/-- R154 XOR Rn, #imm8. -/
def execXorRnImm8 (n : RegNum) (imm : Byte) (s : State) : Result :=
  .next (logicR n (s.r n ^^^ imm) s)

/-- R149 MOV Rn, Rm. -/
def execMovRnRm (n m : RegNum) (s : State) : Result :=
  .next (logicR n (s.r m) s)

/-- R150 MOV Rn, #imm8. -/
def execMovRnImm8 (n : RegNum) (imm : Byte) (s : State) : Result :=
  .next (logicR n imm s)

/-- R137 ADD ERn, ERm. -/
def execAddERnERm (n m : RegNum) (s : State) : Result :=
  .next (arithER n (add16 (s.er n) (s.er m)) s)

/-- R138 ADD ERn, #imm7. -/
def execAddERnImm7 (n : RegNum) (imm : BitVec 7) (s : State) : Result :=
  .next (arithER n (add16 (s.er n) (sext7 imm)) s)

/-- R155 CMP ERn, ERm: flags only. -/
def execCmpERnERm (n m : RegNum) (s : State) : Result :=
  .next (s.setArith (sub16 (s.er n) (s.er m)).2)

/-- R147 MOV ERn, ERm. -/
def execMovERnERm (n m : RegNum) (s : State) : Result :=
  .next (logicER n (s.er m) s)

/-- R148 MOV ERn, #imm7. -/
def execMovERnImm7 (n : RegNum) (imm : BitVec 7) (s : State) : Result :=
  .next (logicER n (sext7 imm) s)

end Sys2Proof.Machine
end

