-- ==== Sys2Proof/Machine/Branch.lean ====
section
/-! DEFINITION. The branch, call and return instructions (45_branch.md). PC is already the address of the next sequential
instruction (R280). -/

namespace Sys2Proof.Machine

/-- R282 Bcond Radr: the displacement is added to the address of the next instruction. -/
def execBcond (c : Cond) (r : Byte) (s : State) : Result :=
  .next (if condHolds c s.psw then s.setPc (s.pc + branchDisp r) else s)

/-- R283 B Cadr. -/
def execBCadr (g : BitVec 4) (a : Word) (s : State) : Result :=
  .next ((s.setCsr (segField g)).setPc a)

/-- R284 BL Cadr: the linkage goes to bank 0 at every level. -/
def execBlCadr (g : BitVec 4) (a : Word) (s : State) : Result :=
  .next (((s.setLink s.pc s.csr).setCsr (segField g)).setPc a)

/-- R285 B ERn: CSR is not changed. -/
def execBERn (n : RegNum) (s : State) : Result :=
  .next (s.setPc (s.er n))

/-- R286 BL ERn: CSR is not changed. -/
def execBlERn (n : RegNum) (s : State) : Result :=
  .next ((s.setLink s.pc s.csr).setPc (s.er n))

/-- R287 RT: always bank 0. -/
def execRt (s : State) : Result :=
  .next ((s.setCsr s.lcsr).setPc s.lr)

end Sys2Proof.Machine
end

