-- ==== Sys2Proof/Machine/Control.lean ====
section
/-! DEFINITION. The control-register access instructions (44_control_register.md). The names ELR, ECSR and EPSW mean the cells
of the level at the start of the instruction; no level is refused, and the EPSW moves do nothing at level 0 (R250). -/

namespace Sys2Proof.Machine

/-- R251 MOV ECSR, Rm. -/
def execMovECSRRm (m : RegNum) (s : State) : Result :=
  .next (s.setEcsr s.level (s.r m))

/-- R252 MOV EPSW, Rm: nothing is written at level 0. -/
def execMovEPSWRm (m : RegNum) (s : State) : Result :=
  .next (if s.level = 0 then s else s.setEpsw s.level (s.r m))

/-- R253 MOV ELR, ERm: all 16 bits are stored. -/
def execMovELRERm (m : RegNum) (s : State) : Result :=
  .next (s.setElr s.level (s.er m))

/-- R254 MOV ERn, ELR. -/
def execMovERnELR (n : RegNum) (s : State) : Result :=
  .next (s.setEr n (s.elrOf s.level))

/-- R255 MOV Rn, EPSW: Rn keeps its value at level 0. -/
def execMovRnEPSW (n : RegNum) (s : State) : Result :=
  .next (if s.level = 0 then s else s.setR n (s.epswOf s.level))

/-- R256 MOV PSW, Rm: all eight bits. -/
def execMovPSWRm (m : RegNum) (s : State) : Result :=
  .next (s.setPsw (s.r m))

/-- R257 MOV PSW, #imm8: all eight bits. -/
def execMovPSWImm8 (imm : Byte) (s : State) : Result :=
  .next (s.setPsw imm)

/-- R258 MOV Rn, ECSR. -/
def execMovRnECSR (n : RegNum) (s : State) : Result :=
  .next (s.setR n (s.ecsrOf s.level))

/-- R259 MOV Rn, PSW. -/
def execMovRnPSW (n : RegNum) (s : State) : Result :=
  .next (s.setR n s.psw)

/-- R260 MOV ERn, SP. -/
def execMovERnSP (n : RegNum) (s : State) : Result :=
  .next (s.setEr n s.sp)

/-- R261 MOV SP, ERm. -/
def execMovSPERm (m : RegNum) (s : State) : Result :=
  .next (s.setSp (s.er m))

/-- R262 ADD SP, #signed8: no flag. -/
def execAddSPImm8 (imm : Byte) (s : State) : Result :=
  .next (s.setSp (s.sp + sext8 imm))

/-- R263 LEA [ERm]. -/
def execLeaERm (m : RegNum) (s : State) : Result :=
  .next (s.setEa (offReg m s))

/-- R264 LEA Disp16[ERm]. -/
def execLeaDisp16ERm (m : RegNum) (d : Word) (s : State) : Result :=
  .next (s.setEa (offDisp16 m d s))

/-- R265 LEA Dadr. -/
def execLeaDadr (a : Word) (s : State) : Result :=
  .next (s.setEa (offDadr a s))

/-- R266 EI. -/
def execEi (s : State) : Result :=
  .next (s.setMIE true)

/-- R267 DI. -/
def execDi (s : State) : Result :=
  .next (s.setMIE false)

/-- R268 SC: CS is not changed. -/
def execSc (s : State) : Result :=
  .next (s.setC true)

/-- R269 RC: CS is not changed. -/
def execRc (s : State) : Result :=
  .next (s.setC false)

/-- R270 CPLC. -/
def execCplc (s : State) : Result :=
  .next (s.setC (!s.c))

end Sys2Proof.Machine
end

