-- ==== Sys2Proof/Machine/Interrupt.lean ====
section
/-! DEFINITION. The interrupt instructions (46_interrupt.md). SWI and BRK call the platform sink and change nothing else; what
the platform answers comes between steps (60_exceptions.md R348, R362; Machine/Platform.lean; log 5). -/

namespace Sys2Proof.Machine

/-- R300 RTI. -/
def execRti (s : State) : Result :=
  .next (returnFromException s)

/-- R301 SWI #snum: `RaiseSoftwareInterrupt(snum)`. -/
def execSwi (k : BitVec 6) (s : State) : Result :=
  .next (s.setSignal (some (.swi k)))

/-- R302 BRK: `Break()`. -/
def execBrk (s : State) : Result :=
  .next (s.setSignal (some .brk))

end Sys2Proof.Machine
end

