-- ==== Sys2Proof/Machine/LoadStore.lean ====
section
/-! DEFINITION. The load and store instructions (42_load_store.md). Data accesses use the segment in force; an access the
memory collaborator refuses is the outcome (00_scope.md R12). -/

namespace Sys2Proof.Machine

/-! ## The sequence of 42_load_store.md R185 -/

/-- A load of k bytes at offset `off`: the read, Z and S (R188), the change of EA if any, the write-back last. -/
def load (k : Nat) (n : RegNum) (off : Word) (ea : State → State) (s : State) : Result :=
  finish do
    let v ← dataRead s.mem s.seg k off
    .ok ((ea (s.setZS v)).setGroup k n v)

/-- A store of k bytes at offset `off`: the write, then the change of EA if any; no flag (R185, R188). -/
def store (k : Nat) (n : RegNum) (off : Word) (ea : State → State) (s : State) : Result :=
  finish do
    let m ← dataWrite s.mem s.seg k off (s.group k n)
    .ok (ea (s.setMem m))

/-- The modes that leave EA alone. -/
def keepEA (s : State) : State := s

/-- `[EA+]` with access width k: EA is bumped after the access (R187). -/
def bumpEA (k : Nat) (s : State) : State := s.setEa (bump k s.ea)

/-! ## The instructions -/

/-- R189 L ERn, [EA]. -/
def execLERnEA (n : RegNum) (s : State) : Result :=
  load 2 n (offEA s) keepEA s

/-- R190 L ERn, [EA+]. -/
def execLERnEAInc (n : RegNum) (s : State) : Result :=
  load 2 n (offEA s) (bumpEA 2) s

/-- R191 L ERn, [ERm]. -/
def execLERnERm (n m : RegNum) (s : State) : Result :=
  load 2 n (offReg m s) keepEA s

/-- R192 L ERn, Disp16[ERm]. -/
def execLERnDisp16ERm (n m : RegNum) (d : Word) (s : State) : Result :=
  load 2 n (offDisp16 m d s) keepEA s

/-- R193 L ERn, Disp6[BP]. -/
def execLERnDisp6BP (n : RegNum) (d : BitVec 6) (s : State) : Result :=
  load 2 n (offBP d s) keepEA s

/-- R194 L ERn, Disp6[FP]. -/
def execLERnDisp6FP (n : RegNum) (d : BitVec 6) (s : State) : Result :=
  load 2 n (offFP d s) keepEA s

/-- R195 L ERn, Dadr. -/
def execLERnDadr (n : RegNum) (a : Word) (s : State) : Result :=
  load 2 n (offDadr a s) keepEA s

/-- R196 L Rn, [EA]. -/
def execLRnEA (n : RegNum) (s : State) : Result :=
  load 1 n (offEA s) keepEA s

/-- R197 L Rn, [EA+]. -/
def execLRnEAInc (n : RegNum) (s : State) : Result :=
  load 1 n (offEA s) (bumpEA 1) s

/-- R198 L Rn, [ERm]. -/
def execLRnERm (n m : RegNum) (s : State) : Result :=
  load 1 n (offReg m s) keepEA s

/-- R199 L Rn, Disp16[ERm]. -/
def execLRnDisp16ERm (n m : RegNum) (d : Word) (s : State) : Result :=
  load 1 n (offDisp16 m d s) keepEA s

/-- R200 L Rn, Disp6[BP]. -/
def execLRnDisp6BP (n : RegNum) (d : BitVec 6) (s : State) : Result :=
  load 1 n (offBP d s) keepEA s

/-- R201 L Rn, Disp6[FP]. -/
def execLRnDisp6FP (n : RegNum) (d : BitVec 6) (s : State) : Result :=
  load 1 n (offFP d s) keepEA s

/-- R202 L Rn, Dadr. -/
def execLRnDadr (n : RegNum) (a : Word) (s : State) : Result :=
  load 1 n (offDadr a s) keepEA s

/-- R203 L XRn, [EA]. -/
def execLXRnEA (n : RegNum) (s : State) : Result :=
  load 4 n (offEA s) keepEA s

/-- R204 L XRn, [EA+]. -/
def execLXRnEAInc (n : RegNum) (s : State) : Result :=
  load 4 n (offEA s) (bumpEA 4) s

/-- R205 L QRn, [EA]. -/
def execLQRnEA (n : RegNum) (s : State) : Result :=
  load 8 n (offEA s) keepEA s

/-- R206 L QRn, [EA+]. -/
def execLQRnEAInc (n : RegNum) (s : State) : Result :=
  load 8 n (offEA s) (bumpEA 8) s

/-- R207 ST ERn, [EA]. -/
def execStERnEA (n : RegNum) (s : State) : Result :=
  store 2 n (offEA s) keepEA s

/-- R208 ST ERn, [EA+]. -/
def execStERnEAInc (n : RegNum) (s : State) : Result :=
  store 2 n (offEA s) (bumpEA 2) s

/-- R209 ST ERn, [ERm]. -/
def execStERnERm (n m : RegNum) (s : State) : Result :=
  store 2 n (offReg m s) keepEA s

/-- R210 ST ERn, Disp16[ERm]. -/
def execStERnDisp16ERm (n m : RegNum) (d : Word) (s : State) : Result :=
  store 2 n (offDisp16 m d s) keepEA s

/-- R211 ST ERn, Disp6[BP]. -/
def execStERnDisp6BP (n : RegNum) (d : BitVec 6) (s : State) : Result :=
  store 2 n (offBP d s) keepEA s

/-- R212 ST ERn, Disp6[FP]. -/
def execStERnDisp6FP (n : RegNum) (d : BitVec 6) (s : State) : Result :=
  store 2 n (offFP d s) keepEA s

/-- R213 ST ERn, Dadr. -/
def execStERnDadr (n : RegNum) (a : Word) (s : State) : Result :=
  store 2 n (offDadr a s) keepEA s

/-- R214 ST Rn, [EA]. -/
def execStRnEA (n : RegNum) (s : State) : Result :=
  store 1 n (offEA s) keepEA s

/-- R215 ST Rn, [EA+]. -/
def execStRnEAInc (n : RegNum) (s : State) : Result :=
  store 1 n (offEA s) (bumpEA 1) s

/-- R216 ST Rn, [ERm]. -/
def execStRnERm (n m : RegNum) (s : State) : Result :=
  store 1 n (offReg m s) keepEA s

/-- R217 ST Rn, Disp16[ERm]. -/
def execStRnDisp16ERm (n m : RegNum) (d : Word) (s : State) : Result :=
  store 1 n (offDisp16 m d s) keepEA s

/-- R218 ST Rn, Disp6[BP]. -/
def execStRnDisp6BP (n : RegNum) (d : BitVec 6) (s : State) : Result :=
  store 1 n (offBP d s) keepEA s

/-- R219 ST Rn, Disp6[FP]. -/
def execStRnDisp6FP (n : RegNum) (d : BitVec 6) (s : State) : Result :=
  store 1 n (offFP d s) keepEA s

/-- R220 ST Rn, Dadr. -/
def execStRnDadr (n : RegNum) (a : Word) (s : State) : Result :=
  store 1 n (offDadr a s) keepEA s

/-- R221 ST XRn, [EA]. -/
def execStXRnEA (n : RegNum) (s : State) : Result :=
  store 4 n (offEA s) keepEA s

/-- R222 ST XRn, [EA+]. -/
def execStXRnEAInc (n : RegNum) (s : State) : Result :=
  store 4 n (offEA s) (bumpEA 4) s

/-- R223 ST QRn, [EA]. -/
def execStQRnEA (n : RegNum) (s : State) : Result :=
  store 8 n (offEA s) keepEA s

/-- R224 ST QRn, [EA+]. -/
def execStQRnEAInc (n : RegNum) (s : State) : Result :=
  store 8 n (offEA s) (bumpEA 8) s

end Sys2Proof.Machine
end

