-- ==== Sys2Proof/Machine/Misc.lean ====
section
/-! DEFINITION. The miscellaneous instructions and the DSR prefixes (47_misc.md). -/

namespace Sys2Proof.Machine

/-! ## Shared effects -/

/-- The adjustment of DAA and DAS: 0x06 for the low digit, 0x60 for the high digit (47_misc.md R313, R314). -/
def bcdAdjust (a : Byte) (c hc : Bool) : Byte :=
  (if hc || decide (9 < a.toNat % 16) then 0x06 else 0x00) ||| (if c || decide (0x99 < a.toNat) then 0x60 else 0x00)

/-- DAA and DAS after the adjusted value `v`: C is never cleared, HC as given, Z and S of `v`, OV kept (47_misc.md R313, R314). -/
def bcdResult (n : RegNum) (v adj : Byte) (hc : Bool) (s : State) : State :=
  (s.setPsw (withZS (withHC (withC s.psw (s.c || decide (0x60 ≤ adj.toNat))) hc) v)).setR n v

/-- EXTBW ERn: R[n+1] becomes copies of bit 7 of R[n], and Z and S those of the new ER[n] (47_misc.md R315). -/
def extbw (n : RegNum) (s : State) : State :=
  let v : Word := (s.r n).signExtend 16
  (s.setZS v).setEr n v

/-- A byte at offset `off` of the data segment read, changed and written back, with the PSW that goes with its old value
(47_misc.md R316, R317, R319, R321; 20_memory.md R69). -/
def modifyByte (off : Word) (f : Byte → Byte) (psw : Byte → Byte) (s : State) : Result :=
  finish do
    let a ← readByte s.mem (address s.seg off)
    let m ← writeByte s.mem (address s.seg off) (f a)
    .ok ((s.setMem m).setPsw (psw a))

/-! ## Multiply and divide -/

/-- R310 MUL ERn, Rm: R[n] times R[m], unsigned; Z alone. -/
def execMulERnRm (n m : RegNum) (s : State) : Result :=
  let p : Word := (s.r n).zeroExtend 16 * (s.r m).zeroExtend 16
  .next ((s.setZ (p == 0)).setEr n p)

/-- R311 DIV ERn, Rm: a zero divisor raises the divide-by-zero exception and nothing else happens; otherwise the remainder
goes to R[m], then the quotient to ER[n], C is cleared and Z is that of the quotient. -/
def execDivERnRm (n m : RegNum) (s : State) : Result :=
  let a := s.er n
  let b := s.r m
  if b = 0 then .next (takeException Config.div0Level.toBits Config.div0Index s)
  else
    let q : Word := BitVec.ofNat 16 (a.toNat / b.toNat)
    let r : Byte := BitVec.ofNat 8 (a.toNat % b.toNat)
    .next (((s.setPsw (withZ (withC s.psw false) (q == 0))).setR m r).setEr n q)

/-! ## Single-register arithmetic -/

/-- R312 NEG Rn. -/
def execNegRn (n : RegNum) (s : State) : Result :=
  .next (arithR n (sub8 0 (s.r n) false) s)

/-- R313 DAA Rn. -/
def execDaaRn (n : RegNum) (s : State) : Result :=
  let a := s.r n
  let adj := bcdAdjust a s.c s.hc
  .next (bcdResult n (a + adj) adj (decide (15 < a.toNat % 16 + adj.toNat % 16)) s)

/-- R314 DAS Rn. -/
def execDasRn (n : RegNum) (s : State) : Result :=
  let a := s.r n
  let adj := bcdAdjust a s.c s.hc
  .next (bcdResult n (a - adj) adj (decide (a.toNat % 16 < adj.toNat % 16)) s)

/-- R315 EXTBW ER0. -/
def execExtbwER0 (s : State) : Result :=
  .next (extbw 0 s)

/-- R315 EXTBW ER2. -/
def execExtbwER2 (s : State) : Result :=
  .next (extbw 2 s)

/-- R315 EXTBW ER4. -/
def execExtbwER4 (s : State) : Result :=
  .next (extbw 4 s)

/-- R315 EXTBW ER6. -/
def execExtbwER6 (s : State) : Result :=
  .next (extbw 6 s)

/-- R315 EXTBW ER8. -/
def execExtbwER8 (s : State) : Result :=
  .next (extbw 8 s)

/-- R315 EXTBW ER10. -/
def execExtbwER10 (s : State) : Result :=
  .next (extbw 10 s)

/-- R315 EXTBW ER12. -/
def execExtbwER12 (s : State) : Result :=
  .next (extbw 12 s)

/-- R315 EXTBW ER14. -/
def execExtbwER14 (s : State) : Result :=
  .next (extbw 14 s)

/-! ## Memory increment and decrement -/

/-- R316 INC [EA]: C is suppressed. -/
def execIncEA (s : State) : Result :=
  modifyByte s.ea (fun a => (add8 a 1 false).1) (fun a => withArithKeepC s.psw (add8 a 1 false).2) s

/-- R317 DEC [EA]: C is suppressed. -/
def execDecEA (s : State) : Result :=
  modifyByte s.ea (fun a => (sub8 a 1 false).1) (fun a => withArithKeepC s.psw (sub8 a 1 false).2) s

/-! ## Bit instructions: Z reports the bit from before the instruction -/

/-- R318 SB Rn.bit. -/
def execSbRn (n : RegNum) (b : BitVec 3) (s : State) : Result :=
  .next ((s.setZ (!(s.r n).getLsbD b.toNat)).setR n (setBit (s.r n) b.toNat true))

/-- R319 SB Dbitadr: the byte is always written back. -/
def execSbDbitadr (b : BitVec 3) (a : Word) (s : State) : Result :=
  modifyByte a (fun x => setBit x b.toNat true) (fun x => withZ s.psw (!x.getLsbD b.toNat)) s

/-- R320 RB Rn.bit. -/
def execRbRn (n : RegNum) (b : BitVec 3) (s : State) : Result :=
  .next ((s.setZ (!(s.r n).getLsbD b.toNat)).setR n (setBit (s.r n) b.toNat false))

/-- R321 RB Dbitadr: the byte is always written back. -/
def execRbDbitadr (b : BitVec 3) (a : Word) (s : State) : Result :=
  modifyByte a (fun x => setBit x b.toNat false) (fun x => withZ s.psw (!x.getLsbD b.toNat)) s

/-- R322 TB Rn.bit. -/
def execTbRn (n : RegNum) (b : BitVec 3) (s : State) : Result :=
  .next (s.setZ (!(s.r n).getLsbD b.toNat))

/-- R323 TB Dbitadr: one read, no write. -/
def execTbDbitadr (b : BitVec 3) (a : Word) (s : State) : Result :=
  finish do
    let x ← readByte s.mem (address s.seg a)
    .ok (s.setZ (!x.getLsbD b.toNat))

/-! ## NOP and the DSR prefixes (47_misc.md R324, R330 to R333): the step goes on after a prefix (Machine/Run.lean) -/

/-- R324 NOP. -/
def execNop (s : State) : Result :=
  .next s

/-- R330 DSR prefix #imm8: DSR, then the segment in force. -/
def execDsrImm8 (imm : Byte) (s : State) : Result :=
  .next ((s.setDsr imm).setSeg imm)

/-- R331 DSR prefix Rd: DSR, then the segment in force. -/
def execDsrRd (d : RegNum) (s : State) : Result :=
  .next ((s.setDsr (s.r d)).setSeg (s.r d))

/-- R332 DSR prefix DSR: the segment in force alone. -/
def execDsrDSR (s : State) : Result :=
  .next (s.setSeg s.dsr)

end Sys2Proof.Machine
end

