-- ==== Sys2Proof/Machine/Shift.lean ====
section
/-! DEFINITION. The shift instructions (41_shift.md): 8-bit shifts by 0 to 7 places; a non-zero count writes C and the
carry-staging cell CS with the last bit shifted out, and SLLC and SRLC take their fill bits from CS. -/

namespace Sys2Proof.Machine

/-! ## The shifter: the new value of the register and the last bit shifted out -/

/-- SLL by `w` places, `w` not 0 (41_shift.md R171). -/
def shiftLeft (x : Byte) (w : Nat) : Byte × Bool := (x <<< w, x.getLsbD (8 - w))

/-- SRL by `w` places, `w` not 0 (41_shift.md R177). -/
def shiftRight (x : Byte) (w : Nat) : Byte × Bool := (x >>> w, x.getLsbD (w - 1))

/-- SRA by `w` places, `w` not 0 (41_shift.md R175). -/
def shiftRightArith (x : Byte) (w : Nat) : Byte × Bool := (x.sshiftRight w, x.getLsbD (w - 1))

/-- SLLC: the 9-bit value CS : Rn rotated left, one place at a time (41_shift.md R173). -/
def rotateLeft : Nat → Byte × Bool → Byte × Bool
  | 0, x => x
  | w + 1, (v, cs) => rotateLeft w ((v <<< 1) ||| (BitVec.ofBool cs).zeroExtend 8, v.getLsbD 7)

/-- SRLC: the 9-bit value Rn : CS rotated right, one place at a time (41_shift.md R179). -/
def rotateRight : Nat → Byte × Bool → Byte × Bool
  | 0, x => x
  | w + 1, (v, cs) => rotateRight w ((v >>> 1) ||| ((BitVec.ofBool cs).zeroExtend 8 <<< 7), v.getLsbD 0)

/-- The effect common to all ten forms: a count of 0 changes nothing; otherwise C and CS receive the last bit shifted
out and R[n] the result (41_shift.md R170). -/
def shiftR (n : RegNum) (w : BitVec 3) (x : Byte × Bool) (s : State) : State :=
  if w = 0 then s else ((s.setC x.2).setCs x.2).setR n x.1

/-! ## The instructions -/

/-- R171 SLL Rn, Rm. -/
def execSllRnRm (n m : RegNum) (s : State) : Result :=
  .next (shiftR n (regCount m s) (shiftLeft (s.r n) (regCount m s).toNat) s)

/-- R172 SLL Rn, #width. -/
def execSllRnWidth (n : RegNum) (w : BitVec 3) (s : State) : Result :=
  .next (shiftR n w (shiftLeft (s.r n) w.toNat) s)

/-- R173 SLLC Rn, Rm. -/
def execSllcRnRm (n m : RegNum) (s : State) : Result :=
  .next (shiftR n (regCount m s) (rotateLeft (regCount m s).toNat (s.r n, s.cs)) s)

/-- R174 SLLC Rn, #width. -/
def execSllcRnWidth (n : RegNum) (w : BitVec 3) (s : State) : Result :=
  .next (shiftR n w (rotateLeft w.toNat (s.r n, s.cs)) s)

/-- R175 SRA Rn, Rm. -/
def execSraRnRm (n m : RegNum) (s : State) : Result :=
  .next (shiftR n (regCount m s) (shiftRightArith (s.r n) (regCount m s).toNat) s)

/-- R176 SRA Rn, #width. -/
def execSraRnWidth (n : RegNum) (w : BitVec 3) (s : State) : Result :=
  .next (shiftR n w (shiftRightArith (s.r n) w.toNat) s)

/-- R177 SRL Rn, Rm. -/
def execSrlRnRm (n m : RegNum) (s : State) : Result :=
  .next (shiftR n (regCount m s) (shiftRight (s.r n) (regCount m s).toNat) s)

/-- R178 SRL Rn, #width. -/
def execSrlRnWidth (n : RegNum) (w : BitVec 3) (s : State) : Result :=
  .next (shiftR n w (shiftRight (s.r n) w.toNat) s)

/-- R179 SRLC Rn, Rm. -/
def execSrlcRnRm (n m : RegNum) (s : State) : Result :=
  .next (shiftR n (regCount m s) (rotateRight (regCount m s).toNat (s.r n, s.cs)) s)

/-- R180 SRLC Rn, #width. -/
def execSrlcRnWidth (n : RegNum) (w : BitVec 3) (s : State) : Result :=
  .next (shiftR n w (rotateRight w.toNat (s.r n, s.cs)) s)

end Sys2Proof.Machine
end

