-- ==== Sys2Proof/Machine/Stack.lean ====
section
/-! DEFINITION. The stack instructions (43_stack.md). Every stack access uses segment 0, whatever prefix came before (R230). -/

namespace Sys2Proof.Machine

/-! ## Items of a register list, each pushed or popped when its selector is set -/

/-- PUSH of an item that carries a segment: the segment slot first, at the higher address, then the offset (43_stack.md R235). -/
def pushFar (seg : Byte) (off : Word) (s : State) : Except Refusal State := do
  let s ← push16 (seg.zeroExtend 16) s
  push16 off s

/-- An item of a list: done when selected, skipped otherwise. -/
def whenSelected (b : Bool) (f : State → Except Refusal State) (s : State) : Except Refusal State :=
  if b then f s else .ok s

/-- POP of EA (43_stack.md R240). -/
def popEA (s : State) : Except Refusal State := do
  let (v, s) ← pop16 s
  .ok (s.setEa v)

/-- POP of LR: LR, then LCSR from the low byte of its slot (43_stack.md R240). -/
def popLR (s : State) : Except Refusal State := do
  let (lr, s) ← pop16 s
  let (lcsr, s) ← pop16 s
  .ok (s.setLink lr (lcsr.extractLsb' 0 8))

/-- POP of PSW: all eight bits, from the low byte of its slot (43_stack.md R240). -/
def popPSW (s : State) : Except Refusal State := do
  let (v, s) ← pop16 s
  .ok (s.setPsw (v.extractLsb' 0 8))

/-- POP of PC: PC with bit 0 dropped, then CSR from the low byte of its slot (43_stack.md R240). -/
def popPC (s : State) : Except Refusal State := do
  let (pc, s) ← pop16 s
  let (csr, s) ← pop16 s
  .ok ((s.setPc pc).setCsr (csr.extractLsb' 0 8))

/-! ## The instructions -/

/-- R231 PUSH Rn. -/
def execPushRn (n : RegNum) (s : State) : Result :=
  finish (pushGroup 1 n s)

/-- R232 PUSH ERn. -/
def execPushERn (n : RegNum) (s : State) : Result :=
  finish (pushGroup 2 n s)

/-- R233 PUSH XRn. -/
def execPushXRn (n : RegNum) (s : State) : Result :=
  finish (pushGroup 4 n s)

/-- R234 PUSH QRn. -/
def execPushQRn (n : RegNum) (s : State) : Result :=
  finish (pushGroup 8 n s)

/-- R235 PUSH list: ELR with ECSR, EPSW, LR with LCSR, EA, in this order; the bank is that of the level at the start. -/
def execPushList (l e p a : Bool) (s : State) : Result :=
  let lv := s.level
  finish do
    let t ← whenSelected p (pushFar (s.ecsrOf lv) (s.elrOf lv)) s
    let t ← whenSelected e (push16 ((s.epswOf lv).zeroExtend 16)) t
    let t ← whenSelected l (pushFar s.lcsr s.lr) t
    whenSelected a (push16 s.ea) t

/-- R236 POP Rn. -/
def execPopRn (n : RegNum) (s : State) : Result :=
  finish (popGroup 1 n s)

/-- R237 POP ERn. -/
def execPopERn (n : RegNum) (s : State) : Result :=
  finish (popGroup 2 n s)

/-- R238 POP XRn. -/
def execPopXRn (n : RegNum) (s : State) : Result :=
  finish (popGroup 4 n s)

/-- R239 POP QRn. -/
def execPopQRn (n : RegNum) (s : State) : Result :=
  finish (popGroup 8 n s)

/-- R240 POP list: EA, LR with LCSR, PSW, PC with CSR, in this order. -/
def execPopList (l e p a : Bool) (s : State) : Result :=
  finish do
    let t ← whenSelected a popEA s
    let t ← whenSelected l popLR t
    let t ← whenSelected e popPSW t
    whenSelected p popPC t

end Sys2Proof.Machine
end

