-- ==== Sys2Proof/Machine/Dispatch.lean ====
section
/-! DEFINITION. The meaning of each instruction, one arm per constructor of Instr. PC already points past the
instruction's words (10_state.md R27). -/

namespace Sys2Proof.Machine

def exec (i : Instr) (s : State) : Host.Outcome State Fault Refusal :=
  match i with
  | .addRnRm n m => Sys2Proof.Machine.execAddRnRm n m s
  | .addRnImm8 n imm => Sys2Proof.Machine.execAddRnImm8 n imm s
  | .addERnERm n m => Sys2Proof.Machine.execAddERnERm n m s
  | .addERnImm7 n imm => Sys2Proof.Machine.execAddERnImm7 n imm s
  | .addcRnRm n m => Sys2Proof.Machine.execAddcRnRm n m s
  | .addcRnImm8 n imm => Sys2Proof.Machine.execAddcRnImm8 n imm s
  | .andRnRm n m => Sys2Proof.Machine.execAndRnRm n m s
  | .andRnImm8 n imm => Sys2Proof.Machine.execAndRnImm8 n imm s
  | .cmpRnRm n m => Sys2Proof.Machine.execCmpRnRm n m s
  | .cmpRnImm8 n imm => Sys2Proof.Machine.execCmpRnImm8 n imm s
  | .cmpcRnRm n m => Sys2Proof.Machine.execCmpcRnRm n m s
  | .cmpcRnImm8 n imm => Sys2Proof.Machine.execCmpcRnImm8 n imm s
  | .movERnERm n m => Sys2Proof.Machine.execMovERnERm n m s
  | .movERnImm7 n imm => Sys2Proof.Machine.execMovERnImm7 n imm s
  | .movRnRm n m => Sys2Proof.Machine.execMovRnRm n m s
  | .movRnImm8 n imm => Sys2Proof.Machine.execMovRnImm8 n imm s
  | .orRnRm n m => Sys2Proof.Machine.execOrRnRm n m s
  | .orRnImm8 n imm => Sys2Proof.Machine.execOrRnImm8 n imm s
  | .xorRnRm n m => Sys2Proof.Machine.execXorRnRm n m s
  | .xorRnImm8 n imm => Sys2Proof.Machine.execXorRnImm8 n imm s
  | .cmpERnERm n m => Sys2Proof.Machine.execCmpERnERm n m s
  | .subRnRm n m => Sys2Proof.Machine.execSubRnRm n m s
  | .subcRnRm n m => Sys2Proof.Machine.execSubcRnRm n m s
  | .sllRnRm n m => Sys2Proof.Machine.execSllRnRm n m s
  | .sllRnWidth n w => Sys2Proof.Machine.execSllRnWidth n w s
  | .sllcRnRm n m => Sys2Proof.Machine.execSllcRnRm n m s
  | .sllcRnWidth n w => Sys2Proof.Machine.execSllcRnWidth n w s
  | .sraRnRm n m => Sys2Proof.Machine.execSraRnRm n m s
  | .sraRnWidth n w => Sys2Proof.Machine.execSraRnWidth n w s
  | .srlRnRm n m => Sys2Proof.Machine.execSrlRnRm n m s
  | .srlRnWidth n w => Sys2Proof.Machine.execSrlRnWidth n w s
  | .srlcRnRm n m => Sys2Proof.Machine.execSrlcRnRm n m s
  | .srlcRnWidth n w => Sys2Proof.Machine.execSrlcRnWidth n w s
  | .lERnEA n => Sys2Proof.Machine.execLERnEA n s
  | .lERnEAInc n => Sys2Proof.Machine.execLERnEAInc n s
  | .lERnERm n m => Sys2Proof.Machine.execLERnERm n m s
  | .lERnDisp16ERm n m d => Sys2Proof.Machine.execLERnDisp16ERm n m d s
  | .lERnDisp6BP n d => Sys2Proof.Machine.execLERnDisp6BP n d s
  | .lERnDisp6FP n d => Sys2Proof.Machine.execLERnDisp6FP n d s
  | .lERnDadr n a => Sys2Proof.Machine.execLERnDadr n a s
  | .lRnEA n => Sys2Proof.Machine.execLRnEA n s
  | .lRnEAInc n => Sys2Proof.Machine.execLRnEAInc n s
  | .lRnERm n m => Sys2Proof.Machine.execLRnERm n m s
  | .lRnDisp16ERm n m d => Sys2Proof.Machine.execLRnDisp16ERm n m d s
  | .lRnDisp6BP n d => Sys2Proof.Machine.execLRnDisp6BP n d s
  | .lRnDisp6FP n d => Sys2Proof.Machine.execLRnDisp6FP n d s
  | .lRnDadr n a => Sys2Proof.Machine.execLRnDadr n a s
  | .lXRnEA n => Sys2Proof.Machine.execLXRnEA n s
  | .lXRnEAInc n => Sys2Proof.Machine.execLXRnEAInc n s
  | .lQRnEA n => Sys2Proof.Machine.execLQRnEA n s
  | .lQRnEAInc n => Sys2Proof.Machine.execLQRnEAInc n s
  | .stERnEA n => Sys2Proof.Machine.execStERnEA n s
  | .stERnEAInc n => Sys2Proof.Machine.execStERnEAInc n s
  | .stERnERm n m => Sys2Proof.Machine.execStERnERm n m s
  | .stERnDisp16ERm n m d => Sys2Proof.Machine.execStERnDisp16ERm n m d s
  | .stERnDisp6BP n d => Sys2Proof.Machine.execStERnDisp6BP n d s
  | .stERnDisp6FP n d => Sys2Proof.Machine.execStERnDisp6FP n d s
  | .stERnDadr n a => Sys2Proof.Machine.execStERnDadr n a s
  | .stRnEA n => Sys2Proof.Machine.execStRnEA n s
  | .stRnEAInc n => Sys2Proof.Machine.execStRnEAInc n s
  | .stRnERm n m => Sys2Proof.Machine.execStRnERm n m s
  | .stRnDisp16ERm n m d => Sys2Proof.Machine.execStRnDisp16ERm n m d s
  | .stRnDisp6BP n d => Sys2Proof.Machine.execStRnDisp6BP n d s
  | .stRnDisp6FP n d => Sys2Proof.Machine.execStRnDisp6FP n d s
  | .stRnDadr n a => Sys2Proof.Machine.execStRnDadr n a s
  | .stXRnEA n => Sys2Proof.Machine.execStXRnEA n s
  | .stXRnEAInc n => Sys2Proof.Machine.execStXRnEAInc n s
  | .stQRnEA n => Sys2Proof.Machine.execStQRnEA n s
  | .stQRnEAInc n => Sys2Proof.Machine.execStQRnEAInc n s
  | .pushRn n => Sys2Proof.Machine.execPushRn n s
  | .pushERn n => Sys2Proof.Machine.execPushERn n s
  | .pushXRn n => Sys2Proof.Machine.execPushXRn n s
  | .pushQRn n => Sys2Proof.Machine.execPushQRn n s
  | .pushList l e p a => Sys2Proof.Machine.execPushList l e p a s
  | .popRn n => Sys2Proof.Machine.execPopRn n s
  | .popERn n => Sys2Proof.Machine.execPopERn n s
  | .popXRn n => Sys2Proof.Machine.execPopXRn n s
  | .popQRn n => Sys2Proof.Machine.execPopQRn n s
  | .popList l e p a => Sys2Proof.Machine.execPopList l e p a s
  | .movECSRRm m => Sys2Proof.Machine.execMovECSRRm m s
  | .movEPSWRm m => Sys2Proof.Machine.execMovEPSWRm m s
  | .movELRERm m => Sys2Proof.Machine.execMovELRERm m s
  | .movERnELR n => Sys2Proof.Machine.execMovERnELR n s
  | .movRnEPSW n => Sys2Proof.Machine.execMovRnEPSW n s
  | .movPSWRm m => Sys2Proof.Machine.execMovPSWRm m s
  | .movPSWImm8 imm => Sys2Proof.Machine.execMovPSWImm8 imm s
  | .movRnECSR n => Sys2Proof.Machine.execMovRnECSR n s
  | .movRnPSW n => Sys2Proof.Machine.execMovRnPSW n s
  | .movERnSP n => Sys2Proof.Machine.execMovERnSP n s
  | .movSPERm m => Sys2Proof.Machine.execMovSPERm m s
  | .addSPImm8 imm => Sys2Proof.Machine.execAddSPImm8 imm s
  | .leaERm m => Sys2Proof.Machine.execLeaERm m s
  | .leaDisp16ERm m d => Sys2Proof.Machine.execLeaDisp16ERm m d s
  | .leaDadr a => Sys2Proof.Machine.execLeaDadr a s
  | .ei => Sys2Proof.Machine.execEi s
  | .di => Sys2Proof.Machine.execDi s
  | .sc => Sys2Proof.Machine.execSc s
  | .rc => Sys2Proof.Machine.execRc s
  | .cplc => Sys2Proof.Machine.execCplc s
  | .bcond c r => Sys2Proof.Machine.execBcond c r s
  | .bCadr g a => Sys2Proof.Machine.execBCadr g a s
  | .blCadr g a => Sys2Proof.Machine.execBlCadr g a s
  | .bERn n => Sys2Proof.Machine.execBERn n s
  | .blERn n => Sys2Proof.Machine.execBlERn n s
  | .rt => Sys2Proof.Machine.execRt s
  | .rti => Sys2Proof.Machine.execRti s
  | .swi k => Sys2Proof.Machine.execSwi k s
  | .brk => Sys2Proof.Machine.execBrk s
  | .mulERnRm n m => Sys2Proof.Machine.execMulERnRm n m s
  | .divERnRm n m => Sys2Proof.Machine.execDivERnRm n m s
  | .negRn n => Sys2Proof.Machine.execNegRn n s
  | .daaRn n => Sys2Proof.Machine.execDaaRn n s
  | .dasRn n => Sys2Proof.Machine.execDasRn n s
  | .extbwER0 => Sys2Proof.Machine.execExtbwER0 s
  | .extbwER2 => Sys2Proof.Machine.execExtbwER2 s
  | .extbwER4 => Sys2Proof.Machine.execExtbwER4 s
  | .extbwER6 => Sys2Proof.Machine.execExtbwER6 s
  | .extbwER8 => Sys2Proof.Machine.execExtbwER8 s
  | .extbwER10 => Sys2Proof.Machine.execExtbwER10 s
  | .extbwER12 => Sys2Proof.Machine.execExtbwER12 s
  | .extbwER14 => Sys2Proof.Machine.execExtbwER14 s
  | .incEA => Sys2Proof.Machine.execIncEA s
  | .decEA => Sys2Proof.Machine.execDecEA s
  | .sbRn n b => Sys2Proof.Machine.execSbRn n b s
  | .sbDbitadr b a => Sys2Proof.Machine.execSbDbitadr b a s
  | .rbRn n b => Sys2Proof.Machine.execRbRn n b s
  | .rbDbitadr b a => Sys2Proof.Machine.execRbDbitadr b a s
  | .tbRn n b => Sys2Proof.Machine.execTbRn n b s
  | .tbDbitadr b a => Sys2Proof.Machine.execTbDbitadr b a s
  | .nop => Sys2Proof.Machine.execNop s
  | .dsrImm8 imm => Sys2Proof.Machine.execDsrImm8 imm s
  | .dsrRd d => Sys2Proof.Machine.execDsrRd d s
  | .dsrDSR => Sys2Proof.Machine.execDsrDSR s

end Sys2Proof.Machine
end

