-- ==== Sys2Proof/WellFormed.lean ====
section
/-! DEFINITION. Which instructions an encoding can hold: a register number of an ER operand is even, of an XR operand a
multiple of 4, of a QR operand a multiple of 8 (30_encoding.md R95, 10_state.md R22, R23). Every other field admits every
value its width allows. -/

namespace Sys2Proof

/-- ER[n] exists for even n (10_state.md R22). -/
def isER (n : RegNum) : Bool := n.extractLsb' 0 1 == 0

/-- XR[n] exists for n a multiple of 4 (10_state.md R22). -/
def isXR (n : RegNum) : Bool := n.extractLsb' 0 2 == 0

/-- QR[n] exists for n a multiple of 8 (10_state.md R22). -/
def isQR (n : RegNum) : Bool := n.extractLsb' 0 3 == 0

/-- The instruction's register operands are ones its encoding can name (30_encoding.md R95). -/
def Instr.wellFormed : Instr → Bool
  | .addRnRm _ _ => true
  | .addRnImm8 _ _ => true
  | .addERnERm n m => isER n && isER m
  | .addERnImm7 n _ => isER n
  | .addcRnRm _ _ => true
  | .addcRnImm8 _ _ => true
  | .andRnRm _ _ => true
  | .andRnImm8 _ _ => true
  | .cmpRnRm _ _ => true
  | .cmpRnImm8 _ _ => true
  | .cmpcRnRm _ _ => true
  | .cmpcRnImm8 _ _ => true
  | .movERnERm n m => isER n && isER m
  | .movERnImm7 n _ => isER n
  | .movRnRm _ _ => true
  | .movRnImm8 _ _ => true
  | .orRnRm _ _ => true
  | .orRnImm8 _ _ => true
  | .xorRnRm _ _ => true
  | .xorRnImm8 _ _ => true
  | .cmpERnERm n m => isER n && isER m
  | .subRnRm _ _ => true
  | .subcRnRm _ _ => true
  | .sllRnRm _ _ => true
  | .sllRnWidth _ _ => true
  | .sllcRnRm _ _ => true
  | .sllcRnWidth _ _ => true
  | .sraRnRm _ _ => true
  | .sraRnWidth _ _ => true
  | .srlRnRm _ _ => true
  | .srlRnWidth _ _ => true
  | .srlcRnRm _ _ => true
  | .srlcRnWidth _ _ => true
  | .lERnEA n => isER n
  | .lERnEAInc n => isER n
  | .lERnERm n m => isER n && isER m
  | .lERnDisp16ERm n m _ => isER n && isER m
  | .lERnDisp6BP n _ => isER n
  | .lERnDisp6FP n _ => isER n
  | .lERnDadr n _ => isER n
  | .lRnEA _ => true
  | .lRnEAInc _ => true
  | .lRnERm _ m => isER m
  | .lRnDisp16ERm _ m _ => isER m
  | .lRnDisp6BP _ _ => true
  | .lRnDisp6FP _ _ => true
  | .lRnDadr _ _ => true
  | .lXRnEA n => isXR n
  | .lXRnEAInc n => isXR n
  | .lQRnEA n => isQR n
  | .lQRnEAInc n => isQR n
  | .stERnEA n => isER n
  | .stERnEAInc n => isER n
  | .stERnERm n m => isER n && isER m
  | .stERnDisp16ERm n m _ => isER n && isER m
  | .stERnDisp6BP n _ => isER n
  | .stERnDisp6FP n _ => isER n
  | .stERnDadr n _ => isER n
  | .stRnEA _ => true
  | .stRnEAInc _ => true
  | .stRnERm _ m => isER m
  | .stRnDisp16ERm _ m _ => isER m
  | .stRnDisp6BP _ _ => true
  | .stRnDisp6FP _ _ => true
  | .stRnDadr _ _ => true
  | .stXRnEA n => isXR n
  | .stXRnEAInc n => isXR n
  | .stQRnEA n => isQR n
  | .stQRnEAInc n => isQR n
  | .pushRn _ => true
  | .pushERn n => isER n
  | .pushXRn n => isXR n
  | .pushQRn n => isQR n
  | .pushList _ _ _ _ => true
  | .popRn _ => true
  | .popERn n => isER n
  | .popXRn n => isXR n
  | .popQRn n => isQR n
  | .popList _ _ _ _ => true
  | .movECSRRm _ => true
  | .movEPSWRm _ => true
  | .movELRERm m => isER m
  | .movERnELR n => isER n
  | .movRnEPSW _ => true
  | .movPSWRm _ => true
  | .movPSWImm8 _ => true
  | .movRnECSR _ => true
  | .movRnPSW _ => true
  | .movERnSP n => isER n
  | .movSPERm m => isER m
  | .addSPImm8 _ => true
  | .leaERm m => isER m
  | .leaDisp16ERm m _ => isER m
  | .leaDadr _ => true
  | .ei => true
  | .di => true
  | .sc => true
  | .rc => true
  | .cplc => true
  | .bcond _ _ => true
  | .bCadr _ _ => true
  | .blCadr _ _ => true
  | .bERn n => isER n
  | .blERn n => isER n
  | .rt => true
  | .rti => true
  | .swi _ => true
  | .brk => true
  | .mulERnRm n _ => isER n
  | .divERnRm n _ => isER n
  | .negRn _ => true
  | .daaRn _ => true
  | .dasRn _ => true
  | .extbwER0 => true
  | .extbwER2 => true
  | .extbwER4 => true
  | .extbwER6 => true
  | .extbwER8 => true
  | .extbwER10 => true
  | .extbwER12 => true
  | .extbwER14 => true
  | .incEA => true
  | .decEA => true
  | .sbRn _ _ => true
  | .sbDbitadr _ _ => true
  | .rbRn _ _ => true
  | .rbDbitadr _ _ => true
  | .tbRn _ _ => true
  | .tbDbitadr _ _ => true
  | .nop => true
  | .dsrImm8 _ => true
  | .dsrRd _ => true
  | .dsrDSR => true

end Sys2Proof
end

