-- ==== Sys2Proof/Decode.lean ====
section
/-! DEFINITION. The decoder, a total function from the first word of an instruction to its row of the opcode table or to
"no row" (30_encoding.md R91, R99 to R107, R120), its reading of bytes, and the encoder written from the same tables.
The bit patterns are the spec's own recall (30_encoding.md preface; log 11). -/

namespace Sys2Proof

/-! ## Fields of a word (30_encoding.md R94, R97, R98) -/

/-- Bits 15:12 of a word. -/
def nib3 (w : Word) : BitVec 4 := w.extractLsb' 12 4
/-- Bits 11:8 of a word. -/
def nib2 (w : Word) : BitVec 4 := w.extractLsb' 8 4
/-- Bits 7:4 of a word. -/
def nib1 (w : Word) : BitVec 4 := w.extractLsb' 4 4
/-- Bits 3:0 of a word. -/
def nib0 (w : Word) : BitVec 4 := w.extractLsb' 0 4

/-- A word from its four nibbles, bits 15:12 first (30_encoding.md R98). -/
def mkWord (a b c d : BitVec 4) : Word := a ++ b ++ c ++ d

/-- Bits 7:4 of a byte. -/
def hiNibble (x : Byte) : BitVec 4 := x.extractLsb' 4 4
/-- Bits 3:0 of a byte. -/
def loNibble (x : Byte) : BitVec 4 := x.extractLsb' 0 4

/-- Bits 6:0 of the byte whose nibbles are given: `#imm7` (30_encoding.md R97). -/
def imm7Of (hi lo : BitVec 4) : BitVec 7 := hi.extractLsb' 0 3 ++ lo
/-- Bits 5:0 of the byte whose nibbles are given: `Disp6` and `snum` (30_encoding.md R97). -/
def low6Of (hi lo : BitVec 4) : BitVec 6 := hi.extractLsb' 0 2 ++ lo
/-- Bits 7:6 of the byte whose high nibble is given: the field tt of format LS6 (30_encoding.md R98). -/
def top2Of (hi : BitVec 4) : BitVec 2 := hi.extractLsb' 2 2
/-- Bits 6:4 of the byte whose high nibble is given: `#width` and `bit` (30_encoding.md R97). -/
def low3Of (hi : BitVec 4) : BitVec 3 := hi.extractLsb' 0 3

/-- The number of a condition code (45_branch.md R281). -/
def Cond.code : Cond → BitVec 4
  | .ge => 0 | .lt => 1 | .gt => 2 | .le => 3 | .ges => 4 | .lts => 5 | .gts => 6 | .les => 7
  | .ne => 8 | .eq => 9 | .nv => 10 | .ov => 11 | .ps => 12 | .ns => 13 | .al => 14 | .al15 => 15

/-- The condition code of a number (45_branch.md R281, 30_encoding.md R104). -/
def Cond.ofCode (c : BitVec 4) : Cond :=
  match c.toNat with
  | 0 => .ge | 1 => .lt | 2 => .gt | 3 => .le | 4 => .ges | 5 => .lts | 6 => .gts | 7 => .les
  | 8 => .ne | 9 => .eq | 10 => .nv | 11 => .ov | 12 => .ps | 13 => .ns | 14 => .al | _ => .al15

/-! ## The decoder -/

/-- What the first word of an instruction says: no row matches it, or it is a whole instruction, or its row carries hint
TI and the long-immediate word follows (30_encoding.md R90, R91, R92). -/
inductive FirstWord where
  | illegal
  | whole (i : Instr)
  | long (withImm : Word → Instr)

/-- A row whose pattern fixes further bits to 0 matches only words that have them so (30_encoding.md R95). -/
def FirstWord.onlyIf (matches_ : Bool) (r : FirstWord) : FirstWord :=
  if matches_ then r else .illegal

/-- Top nibble 8 (30_encoding.md R100); `n`, `m`, `f` are the lower nibbles of the word, first to last. -/
def decode8 (n m f : BitVec 4) : FirstWord :=
  match f.toNat with
  | 0x0 => .whole (.movRnRm n m)
  | 0x1 => .whole (.addRnRm n m)
  | 0x2 => .whole (.andRnRm n m)
  | 0x3 => .whole (.orRnRm n m)
  | 0x4 => .whole (.xorRnRm n m)
  | 0x5 => .whole (.cmpcRnRm n m)
  | 0x6 => .whole (.addcRnRm n m)
  | 0x7 => .whole (.cmpRnRm n m)
  | 0x8 => .whole (.subRnRm n m)
  | 0x9 => .whole (.subcRnRm n m)
  | 0xA => .whole (.sllRnRm n m)
  | 0xB => .whole (.sllcRnRm n m)
  | 0xC => .whole (.srlRnRm n m)
  | 0xD => .whole (.srlcRnRm n m)
  | 0xE => .whole (.sraRnRm n m)
  | _ =>
    match m.toNat with
    | 0x1 => .whole (.daaRn n)
    | 0x3 => .whole (.dasRn n)
    | 0x5 => .whole (.negRn n)
    | 0x0 => .onlyIf (n == 0x1) (.whole .extbwER0)
    | 0x2 => .onlyIf (n == 0x3) (.whole .extbwER2)
    | 0x4 => .onlyIf (n == 0x5) (.whole .extbwER4)
    | 0x6 => .onlyIf (n == 0x7) (.whole .extbwER6)
    | 0x8 => .onlyIf (n == 0x9) (.whole .extbwER8)
    | 0xA => .onlyIf (n == 0xB) (.whole .extbwER10)
    | 0xC => .onlyIf (n == 0xD) (.whole .extbwER12)
    | 0xE => .onlyIf (n == 0xF) (.whole .extbwER14)
    | _ => .illegal

/-- Top nibble 9 (30_encoding.md R101). -/
def decode9 (n m f : BitVec 4) : FirstWord :=
  match f.toNat with
  | 0x0 =>
    match m.toNat with
    | 1 => .long (.lRnDadr n)
    | 3 => .whole (.lRnEA n)
    | 5 => .whole (.lRnEAInc n)
    | _ => .onlyIf (isER m) (.whole (.lRnERm n m))
  | 0x1 =>
    match m.toNat with
    | 1 => .long (.stRnDadr n)
    | 3 => .whole (.stRnEA n)
    | 5 => .whole (.stRnEAInc n)
    | _ => .onlyIf (isER m) (.whole (.stRnERm n m))
  | 0x2 =>
    match m.toNat with
    | 1 => .onlyIf (isER n) (.long (.lERnDadr n))
    | 3 => .onlyIf (isER n) (.whole (.lERnEA n))
    | 5 => .onlyIf (isER n) (.whole (.lERnEAInc n))
    | _ => .onlyIf (isER n && isER m) (.whole (.lERnERm n m))
  | 0x3 =>
    match m.toNat with
    | 1 => .onlyIf (isER n) (.long (.stERnDadr n))
    | 3 => .onlyIf (isER n) (.whole (.stERnEA n))
    | 5 => .onlyIf (isER n) (.whole (.stERnEAInc n))
    | _ => .onlyIf (isER n && isER m) (.whole (.stERnERm n m))
  | 0x4 =>
    match m.toNat with
    | 3 => .onlyIf (isXR n) (.whole (.lXRnEA n))
    | 5 => .onlyIf (isXR n) (.whole (.lXRnEAInc n))
    | _ => .illegal
  | 0x5 =>
    match m.toNat with
    | 3 => .onlyIf (isXR n) (.whole (.stXRnEA n))
    | 5 => .onlyIf (isXR n) (.whole (.stXRnEAInc n))
    | _ => .illegal
  | 0x6 =>
    match m.toNat with
    | 3 => .onlyIf (isQR n) (.whole (.lQRnEA n))
    | 5 => .onlyIf (isQR n) (.whole (.lQRnEAInc n))
    | _ => .illegal
  | 0x7 =>
    match m.toNat with
    | 3 => .onlyIf (isQR n) (.whole (.stQRnEA n))
    | 5 => .onlyIf (isQR n) (.whole (.stQRnEAInc n))
    | _ => .illegal
  | 0x8 => .onlyIf (isER m) (.long (.lRnDisp16ERm n m))
  | 0x9 => .onlyIf (isER m) (.long (.stRnDisp16ERm n m))
  | 0xA => .onlyIf (!m.msb) (.whole (.sllRnWidth n (low3Of m)))
  | 0xB => .onlyIf (!m.msb) (.whole (.sllcRnWidth n (low3Of m)))
  | 0xC => .onlyIf (!m.msb) (.whole (.srlRnWidth n (low3Of m)))
  | 0xD => .onlyIf (!m.msb) (.whole (.srlcRnWidth n (low3Of m)))
  | 0xE => .onlyIf (!m.msb) (.whole (.sraRnWidth n (low3Of m)))
  | _ => .onlyIf (n == 0) (.whole (.dsrRd m))

/-- Top nibble A (30_encoding.md R102). -/
def decodeA (n m f : BitVec 4) : FirstWord :=
  match f.toNat with
  | 0x0 => if m.msb then .onlyIf (n == 0) (.long (.sbDbitadr (low3Of m))) else .whole (.sbRn n (low3Of m))
  | 0x1 => if m.msb then .onlyIf (n == 0) (.long (.tbDbitadr (low3Of m))) else .whole (.tbRn n (low3Of m))
  | 0x2 => if m.msb then .onlyIf (n == 0) (.long (.rbDbitadr (low3Of m))) else .whole (.rbRn n (low3Of m))
  | 0x3 => .onlyIf (m == 0) (.whole (.movRnPSW n))
  | 0x4 => .onlyIf (m == 0) (.whole (.movRnEPSW n))
  | 0x5 => .onlyIf (m == 0 && isER n) (.whole (.movERnELR n))
  | 0x7 => .onlyIf (m == 0) (.whole (.movRnECSR n))
  | 0x8 => .onlyIf (isER n && isER m) (.long (.lERnDisp16ERm n m))
  | 0x9 => .onlyIf (isER n && isER m) (.long (.stERnDisp16ERm n m))
  | 0xA =>
    if m == 1 then .onlyIf (isER n) (.whole (.movERnSP n)) else .onlyIf (n == 1 && isER m) (.whole (.movSPERm m))
  | 0xB => .onlyIf (n == 0) (.whole (.movPSWRm m))
  | 0xC => .onlyIf (n == 0) (.whole (.movEPSWRm m))
  | 0xD => .onlyIf (m == 0 && isER n) (.whole (.movELRERm n))
  | 0xF => .onlyIf (n == 0) (.whole (.movECSRRm m))
  | _ => .illegal

/-- Top nibble B (30_encoding.md R103). -/
def decodeB (n m f : BitVec 4) : FirstWord :=
  .onlyIf (isER n) <|
    match (top2Of m).toNat with
    | 0b00 => .whole (.lERnDisp6BP n (low6Of m f))
    | 0b01 => .whole (.lERnDisp6FP n (low6Of m f))
    | 0b10 => .whole (.stERnDisp6BP n (low6Of m f))
    | _ => .whole (.stERnDisp6FP n (low6Of m f))

/-- Top nibble D (30_encoding.md R105). -/
def decodeD (n m f : BitVec 4) : FirstWord :=
  match (top2Of m).toNat with
  | 0b00 => .whole (.lRnDisp6BP n (low6Of m f))
  | 0b01 => .whole (.lRnDisp6FP n (low6Of m f))
  | 0b10 => .whole (.stRnDisp6BP n (low6Of m f))
  | _ => .whole (.stRnDisp6FP n (low6Of m f))

/-- Top nibble E (30_encoding.md R106). -/
def decodeE (n m f : BitVec 4) : FirstWord :=
  if isER n then
    if m.msb then .whole (.addERnImm7 n (imm7Of m f)) else .whole (.movERnImm7 n (imm7Of m f))
  else
    match n.toNat with
    | 0x1 => .whole (.addSPImm8 (m ++ f))
    | 0x3 => .whole (.dsrImm8 (m ++ f))
    | 0x5 => .onlyIf (top2Of m == 0) (.whole (.swi (low6Of m f)))
    | 0x9 => .whole (.movPSWImm8 (m ++ f))
    | 0xB => if m == 0xF then .onlyIf (f == 0x7) (.whole .di) else .onlyIf (m == 0x7 && f == 0xF) (.whole .rc)
    | 0xD => if m == 0x0 then .onlyIf (f == 0x8) (.whole .ei) else .onlyIf (m == 0x8 && f == 0x0) (.whole .sc)
    | _ => .illegal

/-- Top nibble F (30_encoding.md R107); the register list of PUSH and POP is `lepa`, bits 11:8 (43_stack.md R235, R240). -/
def decodeF (n m f : BitVec 4) : FirstWord :=
  match f.toNat with
  | 0x0 => .onlyIf (m == 0) (.long (.bCadr n))
  | 0x1 => .onlyIf (m == 0) (.long (.blCadr n))
  | 0x2 => .onlyIf (n == 0 && isER m) (.whole (.bERn m))
  | 0x3 => .onlyIf (n == 0 && isER m) (.whole (.blERn m))
  | 0x4 => .onlyIf (isER n) (.whole (.mulERnRm n m))
  | 0x5 => .onlyIf (isER n && isER m) (.whole (.movERnERm n m))
  | 0x6 => .onlyIf (isER n && isER m) (.whole (.addERnERm n m))
  | 0x7 => .onlyIf (isER n && isER m) (.whole (.cmpERnERm n m))
  | 0x9 => .onlyIf (isER n) (.whole (.divERnRm n m))
  | 0xA => .onlyIf (n == 0 && isER m) (.whole (.leaERm m))
  | 0xB => .onlyIf (n == 0 && isER m) (.long (.leaDisp16ERm m))
  | 0xC => .onlyIf (n == 0 && m == 0) (.long .leaDadr)
  | 0xE =>
    match m.toNat with
    | 0x0 => .whole (.popRn n)
    | 0x1 => .onlyIf (isER n) (.whole (.popERn n))
    | 0x2 => .onlyIf (isXR n) (.whole (.popXRn n))
    | 0x3 => .onlyIf (isQR n) (.whole (.popQRn n))
    | 0x4 => .whole (.pushRn n)
    | 0x5 => .onlyIf (isER n) (.whole (.pushERn n))
    | 0x6 => .onlyIf (isXR n) (.whole (.pushXRn n))
    | 0x7 => .onlyIf (isQR n) (.whole (.pushQRn n))
    | 0x8 => .whole (.popList (n.getLsbD 3) (n.getLsbD 2) (n.getLsbD 1) (n.getLsbD 0))
    | 0xC => .whole (.pushList (n.getLsbD 3) (n.getLsbD 2) (n.getLsbD 1) (n.getLsbD 0))
    | _ => .illegal
  | 0xF =>
    if n == 0xE then
      match m.toNat with
      | 0x0 => .whole .rti
      | 0x1 => .whole .rt
      | 0x2 => .whole .incEA
      | 0x3 => .whole .decEA
      | 0x8 => .whole .nop
      | 0x9 => .whole .dsrDSR
      | 0xC => .whole .cplc
      | _ => .illegal
    else .onlyIf (n == 0xF && m == 0xF) (.whole .brk)
  | _ => .illegal

/-- The row that a first word selects, by its top nibble (30_encoding.md R91, R99 to R107). -/
def decodeFirst (w : Word) : FirstWord :=
  let n := nib2 w
  let m := nib1 w
  let f := nib0 w
  match (nib3 w).toNat with
  | 0x0 => .whole (.movRnImm8 n (m ++ f))
  | 0x1 => .whole (.addRnImm8 n (m ++ f))
  | 0x2 => .whole (.andRnImm8 n (m ++ f))
  | 0x3 => .whole (.orRnImm8 n (m ++ f))
  | 0x4 => .whole (.xorRnImm8 n (m ++ f))
  | 0x5 => .whole (.cmpcRnImm8 n (m ++ f))
  | 0x6 => .whole (.addcRnImm8 n (m ++ f))
  | 0x7 => .whole (.cmpRnImm8 n (m ++ f))
  | 0x8 => decode8 n m f
  | 0x9 => decode9 n m f
  | 0xA => decodeA n m f
  | 0xB => decodeB n m f
  | 0xC => .whole (.bcond (Cond.ofCode n) (m ++ f))
  | 0xD => decodeD n m f
  | 0xE => decodeE n m f
  | _ => decodeF n m f

/-- Why a run of bytes holds no instruction. -/
inductive DecodeError where
  /-- The first word matches no row of the opcode table (30_encoding.md R121). -/
  | undefinedInstruction (w : Word)
  /-- The bytes end before the instruction does. -/
  | truncated
  deriving DecidableEq, Repr

/-- Two bytes of a word, the one at the lower address first (20_memory.md R65). -/
def wordOfBytes (lo hi : Byte) : Word := hi ++ lo

/-- The first instruction of a run of bytes and the bytes after it (30_encoding.md R92, R93). -/
def decode : List Byte → Except DecodeError (Instr × List Byte)
  | b0 :: b1 :: rest =>
    match decodeFirst (wordOfBytes b0 b1) with
    | .illegal => .error (.undefinedInstruction (wordOfBytes b0 b1))
    | .whole i => .ok (i, rest)
    | .long withImm =>
      match rest with
      | b2 :: b3 :: rest' => .ok (withImm (wordOfBytes b2 b3), rest')
      | _ => .error .truncated
  | _ => .error .truncated

/-- The low `k` bytes of a number, lowest first: how the hardware stores an instruction numbered as the opcode table
numbers it, the first word in bits 15:0 and each word low byte first (20_memory.md R65). -/
def bytesOfNat : Nat → Nat → List Byte
  | 0, _ => []
  | k + 1, w => BitVec.ofNat 8 w :: bytesOfNat k (w / 256)

/-- The instruction the decoder reads from an instruction whose bits are `w`, of which the table gives `nbits`; the
bits above are 0. Four bytes are the longest instruction (30_encoding.md R90). -/
def decodeTableWord (nbits w : Nat) : Option Instr :=
  match decode (bytesOfNat 4 (w % 2 ^ nbits)) with
  | .ok (i, _) => some i
  | .error _ => none

/-! ## The encoder -/

/-- The field `lepa` of a register list, bit 11 of the word first (43_stack.md R235, R240). -/
def listField (l e p a : Bool) : BitVec 4 :=
  BitVec.ofBool l ++ BitVec.ofBool e ++ BitVec.ofBool p ++ BitVec.ofBool a

/-- The words of an instruction, the first word first (30_encoding.md R98 to R107; the rows of spec/opcode_table.json). -/
def encode : Instr → List Word
  | .addRnRm n m => [mkWord 0x8 n m 0x1]
  | .addRnImm8 n imm => [mkWord 0x1 n (hiNibble imm) (loNibble imm)]
  | .addERnERm n m => [mkWord 0xF n m 0x6]
  | .addERnImm7 n imm => [mkWord 0xE n (1#1 ++ imm.extractLsb' 4 3) (imm.extractLsb' 0 4)]
  | .addcRnRm n m => [mkWord 0x8 n m 0x6]
  | .addcRnImm8 n imm => [mkWord 0x6 n (hiNibble imm) (loNibble imm)]
  | .andRnRm n m => [mkWord 0x8 n m 0x2]
  | .andRnImm8 n imm => [mkWord 0x2 n (hiNibble imm) (loNibble imm)]
  | .cmpRnRm n m => [mkWord 0x8 n m 0x7]
  | .cmpRnImm8 n imm => [mkWord 0x7 n (hiNibble imm) (loNibble imm)]
  | .cmpcRnRm n m => [mkWord 0x8 n m 0x5]
  | .cmpcRnImm8 n imm => [mkWord 0x5 n (hiNibble imm) (loNibble imm)]
  | .movERnERm n m => [mkWord 0xF n m 0x5]
  | .movERnImm7 n imm => [mkWord 0xE n (0#1 ++ imm.extractLsb' 4 3) (imm.extractLsb' 0 4)]
  | .movRnRm n m => [mkWord 0x8 n m 0x0]
  | .movRnImm8 n imm => [mkWord 0x0 n (hiNibble imm) (loNibble imm)]
  | .orRnRm n m => [mkWord 0x8 n m 0x3]
  | .orRnImm8 n imm => [mkWord 0x3 n (hiNibble imm) (loNibble imm)]
  | .xorRnRm n m => [mkWord 0x8 n m 0x4]
  | .xorRnImm8 n imm => [mkWord 0x4 n (hiNibble imm) (loNibble imm)]
  | .cmpERnERm n m => [mkWord 0xF n m 0x7]
  | .subRnRm n m => [mkWord 0x8 n m 0x8]
  | .subcRnRm n m => [mkWord 0x8 n m 0x9]
  | .sllRnRm n m => [mkWord 0x8 n m 0xA]
  | .sllRnWidth n w => [mkWord 0x9 n (0#1 ++ w) 0xA]
  | .sllcRnRm n m => [mkWord 0x8 n m 0xB]
  | .sllcRnWidth n w => [mkWord 0x9 n (0#1 ++ w) 0xB]
  | .sraRnRm n m => [mkWord 0x8 n m 0xE]
  | .sraRnWidth n w => [mkWord 0x9 n (0#1 ++ w) 0xE]
  | .srlRnRm n m => [mkWord 0x8 n m 0xC]
  | .srlRnWidth n w => [mkWord 0x9 n (0#1 ++ w) 0xC]
  | .srlcRnRm n m => [mkWord 0x8 n m 0xD]
  | .srlcRnWidth n w => [mkWord 0x9 n (0#1 ++ w) 0xD]
  | .lERnEA n => [mkWord 0x9 n 0x3 0x2]
  | .lERnEAInc n => [mkWord 0x9 n 0x5 0x2]
  | .lERnERm n m => [mkWord 0x9 n m 0x2]
  | .lERnDisp16ERm n m d => [mkWord 0xA n m 0x8, d]
  | .lERnDisp6BP n d => [mkWord 0xB n (0b00#2 ++ d.extractLsb' 4 2) (d.extractLsb' 0 4)]
  | .lERnDisp6FP n d => [mkWord 0xB n (0b01#2 ++ d.extractLsb' 4 2) (d.extractLsb' 0 4)]
  | .lERnDadr n a => [mkWord 0x9 n 0x1 0x2, a]
  | .lRnEA n => [mkWord 0x9 n 0x3 0x0]
  | .lRnEAInc n => [mkWord 0x9 n 0x5 0x0]
  | .lRnERm n m => [mkWord 0x9 n m 0x0]
  | .lRnDisp16ERm n m d => [mkWord 0x9 n m 0x8, d]
  | .lRnDisp6BP n d => [mkWord 0xD n (0b00#2 ++ d.extractLsb' 4 2) (d.extractLsb' 0 4)]
  | .lRnDisp6FP n d => [mkWord 0xD n (0b01#2 ++ d.extractLsb' 4 2) (d.extractLsb' 0 4)]
  | .lRnDadr n a => [mkWord 0x9 n 0x1 0x0, a]
  | .lXRnEA n => [mkWord 0x9 n 0x3 0x4]
  | .lXRnEAInc n => [mkWord 0x9 n 0x5 0x4]
  | .lQRnEA n => [mkWord 0x9 n 0x3 0x6]
  | .lQRnEAInc n => [mkWord 0x9 n 0x5 0x6]
  | .stERnEA n => [mkWord 0x9 n 0x3 0x3]
  | .stERnEAInc n => [mkWord 0x9 n 0x5 0x3]
  | .stERnERm n m => [mkWord 0x9 n m 0x3]
  | .stERnDisp16ERm n m d => [mkWord 0xA n m 0x9, d]
  | .stERnDisp6BP n d => [mkWord 0xB n (0b10#2 ++ d.extractLsb' 4 2) (d.extractLsb' 0 4)]
  | .stERnDisp6FP n d => [mkWord 0xB n (0b11#2 ++ d.extractLsb' 4 2) (d.extractLsb' 0 4)]
  | .stERnDadr n a => [mkWord 0x9 n 0x1 0x3, a]
  | .stRnEA n => [mkWord 0x9 n 0x3 0x1]
  | .stRnEAInc n => [mkWord 0x9 n 0x5 0x1]
  | .stRnERm n m => [mkWord 0x9 n m 0x1]
  | .stRnDisp16ERm n m d => [mkWord 0x9 n m 0x9, d]
  | .stRnDisp6BP n d => [mkWord 0xD n (0b10#2 ++ d.extractLsb' 4 2) (d.extractLsb' 0 4)]
  | .stRnDisp6FP n d => [mkWord 0xD n (0b11#2 ++ d.extractLsb' 4 2) (d.extractLsb' 0 4)]
  | .stRnDadr n a => [mkWord 0x9 n 0x1 0x1, a]
  | .stXRnEA n => [mkWord 0x9 n 0x3 0x5]
  | .stXRnEAInc n => [mkWord 0x9 n 0x5 0x5]
  | .stQRnEA n => [mkWord 0x9 n 0x3 0x7]
  | .stQRnEAInc n => [mkWord 0x9 n 0x5 0x7]
  | .pushRn n => [mkWord 0xF n 0x4 0xE]
  | .pushERn n => [mkWord 0xF n 0x5 0xE]
  | .pushXRn n => [mkWord 0xF n 0x6 0xE]
  | .pushQRn n => [mkWord 0xF n 0x7 0xE]
  | .pushList l e p a => [mkWord 0xF (listField l e p a) 0xC 0xE]
  | .popRn n => [mkWord 0xF n 0x0 0xE]
  | .popERn n => [mkWord 0xF n 0x1 0xE]
  | .popXRn n => [mkWord 0xF n 0x2 0xE]
  | .popQRn n => [mkWord 0xF n 0x3 0xE]
  | .popList l e p a => [mkWord 0xF (listField l e p a) 0x8 0xE]
  | .movECSRRm m => [mkWord 0xA 0x0 m 0xF]
  | .movEPSWRm m => [mkWord 0xA 0x0 m 0xC]
  | .movELRERm m => [mkWord 0xA m 0x0 0xD]
  | .movERnELR n => [mkWord 0xA n 0x0 0x5]
  | .movRnEPSW n => [mkWord 0xA n 0x0 0x4]
  | .movPSWRm m => [mkWord 0xA 0x0 m 0xB]
  | .movPSWImm8 imm => [mkWord 0xE 0x9 (hiNibble imm) (loNibble imm)]
  | .movRnECSR n => [mkWord 0xA n 0x0 0x7]
  | .movRnPSW n => [mkWord 0xA n 0x0 0x3]
  | .movERnSP n => [mkWord 0xA n 0x1 0xA]
  | .movSPERm m => [mkWord 0xA 0x1 m 0xA]
  | .addSPImm8 imm => [mkWord 0xE 0x1 (hiNibble imm) (loNibble imm)]
  | .leaERm m => [mkWord 0xF 0x0 m 0xA]
  | .leaDisp16ERm m d => [mkWord 0xF 0x0 m 0xB, d]
  | .leaDadr a => [mkWord 0xF 0x0 0x0 0xC, a]
  | .ei => [0xED08]
  | .di => [0xEBF7]
  | .sc => [0xED80]
  | .rc => [0xEB7F]
  | .cplc => [0xFECF]
  | .bcond c r => [mkWord 0xC c.code (hiNibble r) (loNibble r)]
  | .bCadr g a => [mkWord 0xF g 0x0 0x0, a]
  | .blCadr g a => [mkWord 0xF g 0x0 0x1, a]
  | .bERn n => [mkWord 0xF 0x0 n 0x2]
  | .blERn n => [mkWord 0xF 0x0 n 0x3]
  | .rt => [0xFE1F]
  | .rti => [0xFE0F]
  | .swi k => [mkWord 0xE 0x5 (0b00#2 ++ k.extractLsb' 4 2) (k.extractLsb' 0 4)]
  | .brk => [0xFFFF]
  | .mulERnRm n m => [mkWord 0xF n m 0x4]
  | .divERnRm n m => [mkWord 0xF n m 0x9]
  | .negRn n => [mkWord 0x8 n 0x5 0xF]
  | .daaRn n => [mkWord 0x8 n 0x1 0xF]
  | .dasRn n => [mkWord 0x8 n 0x3 0xF]
  | .extbwER0 => [0x810F]
  | .extbwER2 => [0x832F]
  | .extbwER4 => [0x854F]
  | .extbwER6 => [0x876F]
  | .extbwER8 => [0x898F]
  | .extbwER10 => [0x8BAF]
  | .extbwER12 => [0x8DCF]
  | .extbwER14 => [0x8FEF]
  | .incEA => [0xFE2F]
  | .decEA => [0xFE3F]
  | .sbRn n b => [mkWord 0xA n (0#1 ++ b) 0x0]
  | .sbDbitadr b a => [mkWord 0xA 0x0 (1#1 ++ b) 0x0, a]
  | .rbRn n b => [mkWord 0xA n (0#1 ++ b) 0x2]
  | .rbDbitadr b a => [mkWord 0xA 0x0 (1#1 ++ b) 0x2, a]
  | .tbRn n b => [mkWord 0xA n (0#1 ++ b) 0x1]
  | .tbDbitadr b a => [mkWord 0xA 0x0 (1#1 ++ b) 0x1, a]
  | .nop => [0xFE8F]
  | .dsrImm8 imm => [mkWord 0xE 0x3 (hiNibble imm) (loNibble imm)]
  | .dsrRd d => [mkWord 0x9 0x0 d 0xF]
  | .dsrDSR => [0xFE9F]

/-- The bytes of a run of words as memory holds them, each word low byte first (20_memory.md R65). -/
def bytesOfWords : List Word → List Byte
  | [] => []
  | w :: ws => w.extractLsb' 0 8 :: w.extractLsb' 8 8 :: bytesOfWords ws

/-- The bytes of an instruction as memory holds them. -/
def encodeBytes (i : Instr) : List Byte := bytesOfWords (encode i)

end Sys2Proof
end

