-- ==== Sys2Proof/Machine/Fetch.lean ====
section
/-! DEFINITION. Fetching an instruction (20_memory.md R63, 30_encoding.md R92, R93, R121) and placing one in memory. -/

namespace Sys2Proof.Machine

/-- `Fetch16()`: the word at CSR:PC, low byte first, then PC advances by 2 inside the segment (20_memory.md R63,
10_state.md R27, R28). -/
def fetch16 (s : State) : Except Refusal (Word × State) := do
  let w ← dataRead s.mem s.csr 2 s.pc
  .ok (w, s.setPc (s.pc + 2))

/-- The state a fatal outcome leaves: PC past the word, nothing else changed, the core stopped and the step over
(30_encoding.md R121; log 7). -/
def stoppedAfter (s : State) : State := (s.setSeg 0).setStopped true

/-- One instruction fetched and decoded, with the state in which PC points past its words (30_encoding.md R92): the
second word is fetched exactly when the first one's row carries hint TI (R93). -/
def fetchInstr (s : State) : Host.Outcome (Instr × State) Fault Refusal :=
  match fetch16 s with
  | .error r => .refused r
  | .ok (w, s1) =>
    match decodeFirst w with
    | .illegal => .fault (.undefinedInstruction w (stoppedAfter s1))
    | .whole i => .next (i, s1)
    | .long withImm =>
      match fetch16 s1 with
      | .error r => .refused r
      | .ok (x, s2) => .next (withImm x, s2)

/-- Bytes stored from an offset of a segment upwards by the host, where the collaborator takes them (70_reset_and_hazards.md
R383). -/
def placeBytes (m : Memory) (seg : Byte) : Word → List Byte → Memory
  | _, [] => m
  | off, b :: bs =>
    match physical (address seg off) with
    | some k => placeBytes (Memory.write m k b) seg (off + 1) bs
    | none => placeBytes m seg (off + 1) bs

/-- The instruction with bits `w`, of which the opcode table gives `nbits`, stored where the next fetch reads, on a core
that runs. -/
def placeInstruction (s : State) (nbits w : Nat) : State :=
  (s.setMem (placeBytes s.mem s.csr s.pc (bytesOfNat 4 (w % 2 ^ nbits)))).setStopped false

end Sys2Proof.Machine
end

