-- ==== Sys2Proof/Machine/Run.lean ====
section
/-! DEFINITION. One call of `Next()`: zero or more DSR prefixes and then one non-prefix instruction (00_scope.md R12,
30_encoding.md R92, 47_misc.md R333). -/

namespace Sys2Proof.Machine

/-- At most `fuel` instructions of one step: the step goes on after a DSR prefix, and ends after any other instruction
with `seg` back at 0 (30_encoding.md R92, 47_misc.md R333). -/
def runStep : Nat → State → Result
  | 0, _ => .fault .endlessPrefixes
  | fuel + 1, s =>
    match fetchInstr s with
    | .fault f => .fault f
    | .refused r => .refused r
    | .next (i, s1) =>
      match exec i s1 with
      | .fault f => .fault f
      | .refused r => .refused r
      | .next s2 => if i.isDsrPrefix then runStep fuel s2 else .next (s2.setSeg 0)

/-- A code segment holds 2^15 instruction words and a prefix is one word that changes no memory: a step that has
executed more prefixes than that executes the same ones for ever (DEDUCED, log 6). -/
def maxStepInstrs : Nat := 0x8001

/-- One step: `seg` is 0 at its start (10_state.md R37), no call of the platform has been made yet, and a stopped core
executes nothing (30_encoding.md R121). -/
def nextStep (s : State) : Result :=
  if s.stopped then .fault .coreStopped else runStep maxStepInstrs ((s.setSeg 0).setSignal none)

end Sys2Proof.Machine
end

