-- ==== Sys2Proof/Machine/Step.lean ====
section
/-! DEFINITION. The step of the machine: one call of `Next()` (00_scope.md R12), and the placing of one instruction where
it fetches next. What they do stands in Machine/Run.lean and Machine/Fetch.lean. -/

namespace Sys2Proof.Machine

/-- One call of `Next()` (00_scope.md R12). -/
def step (s : State) : Host.Outcome State Fault Refusal := nextStep s

/-- The state with the instruction of bits `w` stored where `step` fetches its next instruction (log 8). -/
def State.withFetchWord (s : State) (nbits w : Nat) : State := placeInstruction s nbits w

end Sys2Proof.Machine
end

