-- ==== Sys2Proof/Machine/Platform.lean ====
section
/-! DEFINITION. What the host and the platform do between steps: the calls of `Raise` and `Reset()`, the two accessors
(60_exceptions.md R344, R348, R355), and the OPEN parameter `Platform` as an argument, with the reference binding of
60_exceptions.md R362 (log 5). None of it is behaviour of the core. -/

namespace Sys2Proof.Machine

/-- `Raise(level, index)` as the host calls it; arguments outside its domain are refused (60_exceptions.md R344). DESIGN
CHOICE, unsafe (log 16): the spec is silent on a call to a core stopped by a fatal outcome; the model performs it as on a
running core and leaves the core stopped. -/
def hostRaise (level index : Nat) (s : State) : Result :=
  if level ≤ 3 ∧ index ≤ 127 then .next (takeException (BitVec.ofNat 2 level) (BitVec.ofNat 7 index) s)
  else .refused (.hostArguments level index)

/-- `GetExceptionLevel()` (60_exceptions.md R355). -/
def getExceptionLevel (s : State) : Nat := s.level.toNat

/-- `GetMasterInterruptEnable()` (60_exceptions.md R355). -/
def getMasterInterruptEnable (s : State) : Bool := pswMIE s.psw

/-- A call the host makes between steps (00_scope.md R13). -/
inductive HostCall where
  | raise (level : BitVec 2) (index : BitVec 7)
  | reset
  deriving DecidableEq, Repr

/-- The effect of a host call; on a stopped core as `hostRaise` (log 16). -/
def HostCall.perform : HostCall → State → State
  | .raise level index, s => takeException level index s
  | .reset, s => s.hostReset

/-- An interrupt request of the reference platform (60_exceptions.md R362). -/
inductive Request where
  /-- Maskable interrupt `k`, 5 to 63. -/
  | maskable (k : BitVec 6)
  | nonMaskable
  | emulator
  deriving DecidableEq, Repr

/-- The parameter `Platform`: how the platform answers a signal, given the state after the step, and which request it
takes between steps (00_scope.md R8). -/
structure Platform where
  answer : Signal → State → List HostCall
  take : Request → State → Option HostCall

/-- The platform that drops both signals and takes no request: SWI and BRK behave as NOP (60_exceptions.md R362). -/
def Platform.silent : Platform where
  answer _ _ := []
  take _ _ := none

/-- The reference platform's answer to a signal (60_exceptions.md R362). -/
def referenceAnswer : Signal → State → List HostCall
  | .swi n, _ => [.raise 1 (64 + n.zeroExtend 7)]
  | .brk, s => if s.level.toNat ≤ 1 then [.raise 2 2] else [.reset]

/-- The reference platform's gating of a request (60_exceptions.md R362). -/
def referenceTake : Request → State → Option HostCall
  | .maskable k, s =>
    if 5 ≤ k.toNat ∧ getMasterInterruptEnable s ∧ s.level.toNat ≤ 1 then some (.raise 1 (k.zeroExtend 7)) else none
  | .nonMaskable, s => if s.level.toNat ≤ 2 then some (.raise 2 4) else none
  | .emulator, _ => some (.raise 3 3)

/-- The reference platform (60_exceptions.md R362). -/
def Platform.reference : Platform where
  answer := referenceAnswer
  take := referenceTake

/-- The order in which the reference platform considers pending requests: emulator, non-maskable, then maskable with the
lowest index first (60_exceptions.md R349). -/
def Request.rank : Request → Nat
  | .emulator => 0
  | .nonMaskable => 1
  | .maskable k => 2 + k.toNat

/-- The pending requests in order of rank. -/
def insertByRank (q : Request) : List Request → List Request
  | [] => [q]
  | p :: ps => if q.rank ≤ p.rank then q :: p :: ps else p :: insertByRank q ps

/-- What a platform does in a gap between steps: it takes at most one of its pending requests, the first in rank that it
takes. For the reference platform this is 60_exceptions.md R349 (c). For any other platform it is the model's DESIGN CHOICE,
unsafe (log 15): R349 (c) leaves to the host in which order it takes the pending requests, and how many in a gap. -/
def Platform.interrupt (p : Platform) (pending : List Request) (s : State) : State :=
  match (pending.foldr insertByRank []).findSome? (fun q => p.take q s) with
  | some call => call.perform s
  | none => s

/-- The platform's answer to the signal of the step just made (60_exceptions.md R348). -/
def Platform.deliver (p : Platform) (s : State) : State :=
  match s.signal with
  | none => s
  | some x => ((p.answer x s).foldl (fun t call => call.perform t) s).setSignal none

/-- One step and the platform's answer to it. -/
def systemStep (p : Platform) (s : State) : Result :=
  match step s with
  | .next s' => .next (p.deliver s')
  | .fault f => .fault f
  | .refused r => .refused r

end Sys2Proof.Machine
end

