-- ==== Sys2Proof/Safety.lean ====
section
/-! DEFINITION. What counts as a sound state, and the terms in which the statements say what an instruction reads, writes
and leaves alone. -/

namespace Sys2Proof

open Machine

/-! ## Memory places -/

/-- The memory collaborator answers accesses to this segment: it lies below 2^20, or `MemHigh` is not refuse
(00_scope.md R8). -/
def segmentAnswers (seg : Byte) : Prop := seg.toNat < 16 ∨ Config.memHigh ≠ .refuse

/-- The place of byte `j` of an access at an offset of a segment, none where the collaborator refuses it (20_memory.md
R61, R66). -/
def placeOf (seg : Byte) (off : Word) (j : Nat) : Option Nat := physical (address seg (off + BitVec.ofNat 16 j))

/-- The place `a` holds one of the `k` bytes of an access at an offset of a segment (20_memory.md R66, R67). -/
def holdsByteOf (seg : Byte) (off : Word) (k : Nat) (a : Nat) : Prop := ∃ j < k, placeOf seg off j = some a

/-- The k bytes of `v`, lowest first, stand at an offset of a segment in `m'`, and every other place reads as in `m`
(20_memory.md R67). -/
def StoredAt (m : Memory) (seg : Byte) (off : Word) (k : Nat) (v : BitVec (8 * k)) (m' : Memory) : Prop :=
  (∀ j < k, ∃ p, placeOf seg off j = some p ∧ Memory.read m' p = v.extractLsb' (8 * j) 8) ∧
  (∀ a, ¬ holdsByteOf seg off k a → Memory.read m' a = Memory.read m a) ∧
  Memory.wf m' = true

/-- The word at an offset of segment 0, low byte first: a stack slot (20_memory.md R65, 43_stack.md R230). -/
def slotWord (m : Memory) (off : Word) : Word := Memory.read m (off + 1).toNat ++ Memory.read m off.toNat

/-! ## Sound states -/

/-- What is true of the machine between steps: the memory is in canonical form and inside the key space, bit 0 of PC is
0 (10_state.md R26), no data segment is in force (10_state.md R37), the core is not stopped. -/
structure Sound (s : State) : Prop where
  canonical : Memory.wf s.mem = true
  inSpace : Memory.inSpace s.mem = true
  pcEven : s.pc.getLsbD 0 = false
  noSegment : s.seg = 0
  running : s.stopped = false

/-- The states a running core can be in: after reset, after a step, after a host call, or with any memory the host has
placed (00_scope.md R13, 70_reset_and_hazards.md R383). -/
inductive Reachable : State → Prop where
  | reset : Reachable State.reset
  | load (s : State) (m : Memory) : Reachable s → Memory.wf m = true → Memory.inSpace m = true → Reachable (s.setMem m)
  | step (s t : State) : Reachable s → Machine.step s = .next t → Reachable t
  | host (s : State) (call : HostCall) : Reachable s → Reachable (call.perform s)

/-! ## Encodings and fetches -/

/-- These words are the instruction's encoding: whatever follows them, the decoder reads that instruction from their
bytes (30_encoding.md R90, R91). -/
def DecodesAs (ws : List Word) (i : Instr) : Prop :=
  i.wellFormed = true ∧ ∀ rest, decode (bytesOfWords ws ++ rest) = .ok (i, rest)

/-- These bytes stand in memory from CSR:PC upwards (20_memory.md R63, 10_state.md R28). -/
def BytesAtPc (s : State) (bs : List Byte) : Prop :=
  ∀ (j : Nat) (h : j < bs.length), readByte s.mem (address s.csr (s.pc + BitVec.ofNat 16 j)) = .ok bs[j]

/-- An outcome with its next state changed by `f`. -/
def onNext (f : State → State) : Result → Result
  | .next t => .next (f t)
  | .fault x => .fault x
  | .refused r => .refused r

/-- DSR and the segment in force after a DSR prefix (47_misc.md R330 to R332); any other instruction keeps both. -/
def prefixEffect (s : State) : Byte × Byte → Instr → Byte × Byte
  | _, .dsrImm8 imm => (imm, imm)
  | _, .dsrRd d => (s.r d, s.r d)
  | (dsr, _), .dsrDSR => (dsr, dsr)
  | x, _ => x

/-! ## What an instruction does, in the order encoding, then effect from every state that meets a condition -/

/-- The words encode the instruction, and from every state that meets `pre` it gives a next state that meets `post`. -/
def Does (ws : List Word) (i : Instr) (pre : State → Prop) (post : State → State → Prop) : Prop :=
  DecodesAs ws i ∧ ∀ s, pre s → ∃ t, exec i s = .next t ∧ post s t

/-- No condition on the state. -/
def anyState (_ : State) : Prop := True

/-- R[n] becomes `v` and every other general register keeps its value. -/
def ByteWritten (n : RegNum) (v : Byte) (s t : State) : Prop := ∀ x, t.r x = if x = n then v else s.r x

/-- Register `x` is one of the k cells of the group at R[n] (10_state.md R22). -/
def inGroup (k : Nat) (n x : RegNum) : Prop := ∃ j < k, x = n + BitVec.ofNat 4 j

/-- The k cells from R[n] upwards hold the bytes of `v`, lowest first, and every other general register keeps its value
(10_state.md R22). -/
def GroupWritten (k : Nat) (n : RegNum) (v : BitVec (8 * k)) (s t : State) : Prop :=
  (∀ j < k, t.r (n + BitVec.ofNat 4 j) = v.extractLsb' (8 * j) 8) ∧ ∀ x, ¬ inGroup k n x → t.r x = s.r x

/-- Everything but PSW is as before. -/
def OnlyPsw (s t : State) : Prop := t = s.setPsw t.psw

/-- Everything but the general registers and PSW is as before. -/
def OnlyRegsPsw (s t : State) : Prop := t = { s.setPsw t.psw with regs := t.regs }

/-- Everything but the general registers is as before. -/
def OnlyRegs (s t : State) : Prop := t = { s with regs := t.regs }

/-- The instruction writes `v` to R[n] and `p` to PSW and changes nothing else. -/
def WritesByte (ws : List Word) (i : Instr) (n : RegNum) (v p : State → Byte) : Prop :=
  Does ws i anyState fun s t => ByteWritten n (v s) s t ∧ t.psw = p s ∧ OnlyRegsPsw s t

/-- The instruction writes `v` to ER[n] and `p` to PSW and changes nothing else. -/
def WritesPair (ws : List Word) (i : Instr) (n : RegNum) (v : State → Word) (p : State → Byte) : Prop :=
  Does ws i anyState fun s t => GroupWritten 2 n (v s) s t ∧ t.psw = p s ∧ OnlyRegsPsw s t

/-- The instruction writes `p` to PSW and changes nothing else. -/
def WritesPsw (ws : List Word) (i : Instr) (p : State → Byte) : Prop :=
  Does ws i anyState fun s t => t.psw = p s ∧ OnlyPsw s t

/-- The instruction leads to the state `f s` and nothing else. -/
def LeadsTo (ws : List Word) (i : Instr) (f : State → State) : Prop :=
  Does ws i anyState fun s t => t = f s

/-! ## PSW after an operation, from exact integers -/

/-- The exact signed result does not fit in `w` bits. -/
def outOfRange (w : Nat) (x : Int) : Bool := decide (x < -(2 ^ (w - 1) : Int) ∨ (2 ^ (w - 1) : Int) ≤ x)

/-- PSW after an addition: carry, zero, sign, signed overflow, and the carry out of bit `h - 1` (40_arithmetic.md R130,
R132); MIE and ELEVEL kept. -/
def pswSum (h : Nat) (p : Byte) {w : Nat} (a b : BitVec w) (cin : Bool) : Byte :=
  let sum := a.toNat + b.toNat + cin.toNat
  packPsw (decide (2 ^ w ≤ sum)) (decide (sum % 2 ^ w = 0)) (decide (2 ^ (w - 1) ≤ sum % 2 ^ w))
    (outOfRange w (a.toInt + b.toInt + cin.toNat)) (pswMIE p)
    (decide (2 ^ h ≤ a.toNat % 2 ^ h + b.toNat % 2 ^ h + cin.toNat)) (pswLevel p)

/-- PSW after a subtraction or comparison: borrow, zero, sign, signed overflow, and the borrow into bit `h - 1`
(40_arithmetic.md R131, R133); MIE and ELEVEL kept. -/
def pswDifference (h : Nat) (p : Byte) {w : Nat} (a b : BitVec w) (bin : Bool) : Byte :=
  let diff : Int := (a.toNat : Int) - b.toNat - bin.toNat
  packPsw (decide (a.toNat < b.toNat + bin.toNat)) (decide (diff % 2 ^ w = 0)) (decide (2 ^ (w - 1) ≤ diff % 2 ^ w))
    (outOfRange w (a.toInt - b.toInt - bin.toNat)) (pswMIE p)
    (decide (a.toNat % 2 ^ h < b.toNat % 2 ^ h + bin.toNat)) (pswLevel p)

/-- PSW with Z and S of a value; every other bit kept (40_arithmetic.md R134, 42_load_store.md R188). -/
def pswOfValue (p : Byte) {w : Nat} (v : BitVec w) : Byte :=
  packPsw (pswC p) (decide (v.toNat = 0)) (decide (2 ^ (w - 1) ≤ v.toNat)) (pswOV p) (pswMIE p) (pswHC p) (pswLevel p)

/-- PSW with C replaced, packed from its fields. -/
def pswCarry (p : Byte) (c : Bool) : Byte := packPsw c (pswZ p) (pswS p) (pswOV p) (pswMIE p) (pswHC p) (pswLevel p)

/-- PSW with Z replaced, packed from its fields. -/
def pswZero (p : Byte) (z : Bool) : Byte := packPsw (pswC p) z (pswS p) (pswOV p) (pswMIE p) (pswHC p) (pswLevel p)

/-- PSW with MIE replaced, packed from its fields. -/
def pswEnable (p : Byte) (e : Bool) : Byte := packPsw (pswC p) (pswZ p) (pswS p) (pswOV p) e (pswHC p) (pswLevel p)

/-! ## Shifts -/

/-- A shift of R[n] by a 3-bit count: a count of 0 changes nothing, any other writes R[n], and C and CS with the bit out
(41_shift.md R170). `value` and `out` take the old register, the old CS and the count. -/
def ShiftsBy (ws : List Word) (i : Instr) (n : RegNum) (count : State → BitVec 3) (value : Byte → Bool → Nat → Nat)
    (out : Byte → Bool → Nat → Bool) : Prop :=
  Does ws i anyState fun s t =>
    let w := (count s).toNat
    if w = 0 then t = s
    else ByteWritten n (BitVec.ofNat 8 (value (s.r n) s.cs w)) s t ∧ t.cs = out (s.r n) s.cs w ∧
      t.psw = pswCarry s.psw (out (s.r n) s.cs w) ∧ t = { s.setPsw t.psw with regs := t.regs, cs := t.cs }

/-- The 9-bit value of SLLC, `CS : R[n]`, rotated left by `w` places (41_shift.md R173). -/
def rotatedLeft (x : Byte) (cs : Bool) (w : Nat) : Nat :=
  let v := cs.toNat * 256 + x.toNat
  ((v <<< w) ||| (v >>> (9 - w))) % 512

/-- The 9-bit value of SRLC, `R[n] : CS`, rotated right by `w` places (41_shift.md R179). -/
def rotatedRight (x : Byte) (cs : Bool) (w : Nat) : Nat :=
  let v := x.toNat * 2 + cs.toNat
  ((v >>> w) ||| (v <<< (9 - w))) % 512

/-! ## Loads, stores, the stack -/

/-- A load of k bytes at offset `off s` into the group at R[n], with EA becoming `ea s` (42_load_store.md R185, R188). -/
def Loads (ws : List Word) (i : Instr) (k : Nat) (n : RegNum) (off ea : State → Word) : Prop :=
  Does ws i (fun s => segmentAnswers s.seg) fun s t =>
    ∃ v, dataRead s.mem s.seg k (off s) = .ok v ∧ GroupWritten k n v s t ∧ t.psw = pswOfValue s.psw v ∧ t.ea = ea s ∧
      t = { s.setPsw t.psw with regs := t.regs, ea := t.ea }

/-- A store of the group at R[n] to k bytes at offset `off s`, with EA becoming `ea s` (42_load_store.md R185). -/
def Stores (ws : List Word) (i : Instr) (k : Nat) (n : RegNum) (off ea : State → Word) : Prop :=
  Does ws i (fun s => segmentAnswers s.seg ∧ Memory.wf s.mem = true) fun s t =>
    StoredAt s.mem s.seg (off s) k (s.group k n) t.mem ∧ t.ea = ea s ∧ t = { s with mem := t.mem, ea := t.ea }

/-- A PUSH of the k-byte group at R[n] that lowers SP by `d` (43_stack.md R230 to R234). -/
def Pushes (ws : List Word) (i : Instr) (k : Nat) (n : RegNum) (d : Word) : Prop :=
  Does ws i (fun s => Memory.wf s.mem = true) fun s t =>
    t.sp = s.sp - d ∧ StoredAt s.mem 0 (s.sp - d) k (s.group k n) t.mem ∧ t = { s with mem := t.mem, sp := t.sp }

/-- A POP of the k-byte group at R[n] that raises SP by `d` (43_stack.md R236 to R239). -/
def Pops (ws : List Word) (i : Instr) (k : Nat) (n : RegNum) (d : Word) : Prop :=
  Does ws i anyState fun s t =>
    ∃ v, dataRead s.mem 0 k s.sp = .ok v ∧ GroupWritten k n v s t ∧ t.sp = s.sp + d ∧
      t = { s with regs := t.regs, sp := t.sp }

/-- The words a PUSH list pushes, the first pushed first (43_stack.md R235). -/
def pushedItems (l e p a : Bool) (s : State) : List Word :=
  (if p then [(s.ecsrOf s.level).zeroExtend 16, s.elrOf s.level] else []) ++
  (if e then [(s.epswOf s.level).zeroExtend 16] else []) ++
  (if l then [s.lcsr.zeroExtend 16, s.lr] else []) ++
  (if a then [s.ea] else [])

/-! ## What each instruction may change -/

/-- What an instruction may change and which data it accesses, each field empty unless the instruction names it. -/
structure Touches where
  /-- The general registers it may write, as groups of k cells from R[n] upwards. -/
  regs : List (Nat × RegNum) := []
  /-- The bits of PSW it may change (10_state.md R32). -/
  psw : Byte := 0x00
  /-- The bytes it loads through the segment in force without storing to them: offset and how many (20_memory.md R68). -/
  load : Option (Word × Nat) := none
  /-- The bytes it stores through the segment in force (20_memory.md R68). -/
  store : Option (Word × Nat) := none
  /-- The bytes it stores in segment 0 (43_stack.md R230). -/
  push : Option (Word × Nat) := none
  /-- It may change PC. -/
  pc : Bool := false
  /-- It may change CSR (10_state.md R28). -/
  csr : Bool := false
  /-- It may change SP (10_state.md R39). -/
  sp : Bool := false
  /-- It may change EA (10_state.md R40). -/
  ea : Bool := false
  /-- It may change DSR (10_state.md R41). -/
  dsr : Bool := false
  /-- It may change CS (10_state.md R36). -/
  cs : Bool := false
  /-- It may change a bank cell other than PSW (10_state.md R45). -/
  bank : Bool := false
  /-- It may change the segment in force (10_state.md R37). -/
  seg : Bool := false
  /-- It calls the platform (46_interrupt.md R301, R302; log 5). -/
  signal : Bool := false
  /-- It calls `Raise`: DIV with a zero divisor (60_exceptions.md R346). -/
  raises : Bool := false

/-- What each instruction may change from a state. -/
def touches (s : State) : Instr → Touches
  | .addRnRm n _ => { regs := [(1, n)], psw := 0xF4 }
  | .addRnImm8 n _ => { regs := [(1, n)], psw := 0xF4 }
  | .addERnERm n _ => { regs := [(2, n)], psw := 0xF4 }
  | .addERnImm7 n _ => { regs := [(2, n)], psw := 0xF4 }
  | .addcRnRm n _ => { regs := [(1, n)], psw := 0xF4 }
  | .addcRnImm8 n _ => { regs := [(1, n)], psw := 0xF4 }
  | .andRnRm n _ => { regs := [(1, n)], psw := 0x60 }
  | .andRnImm8 n _ => { regs := [(1, n)], psw := 0x60 }
  | .cmpRnRm _ _ => { psw := 0xF4 }
  | .cmpRnImm8 _ _ => { psw := 0xF4 }
  | .cmpcRnRm _ _ => { psw := 0xF4 }
  | .cmpcRnImm8 _ _ => { psw := 0xF4 }
  | .movERnERm n _ => { regs := [(2, n)], psw := 0x60 }
  | .movERnImm7 n _ => { regs := [(2, n)], psw := 0x60 }
  | .movRnRm n _ => { regs := [(1, n)], psw := 0x60 }
  | .movRnImm8 n _ => { regs := [(1, n)], psw := 0x60 }
  | .orRnRm n _ => { regs := [(1, n)], psw := 0x60 }
  | .orRnImm8 n _ => { regs := [(1, n)], psw := 0x60 }
  | .xorRnRm n _ => { regs := [(1, n)], psw := 0x60 }
  | .xorRnImm8 n _ => { regs := [(1, n)], psw := 0x60 }
  | .cmpERnERm _ _ => { psw := 0xF4 }
  | .subRnRm n _ => { regs := [(1, n)], psw := 0xF4 }
  | .subcRnRm n _ => { regs := [(1, n)], psw := 0xF4 }
  | .sllRnRm n m => { regs := [(1, n)], psw := if regCount m s = 0 then 0x00 else 0x80, cs := true }
  | .sllRnWidth n w => { regs := [(1, n)], psw := if w = 0 then 0x00 else 0x80, cs := true }
  | .sllcRnRm n m => { regs := [(1, n)], psw := if regCount m s = 0 then 0x00 else 0x80, cs := true }
  | .sllcRnWidth n w => { regs := [(1, n)], psw := if w = 0 then 0x00 else 0x80, cs := true }
  | .sraRnRm n m => { regs := [(1, n)], psw := if regCount m s = 0 then 0x00 else 0x80, cs := true }
  | .sraRnWidth n w => { regs := [(1, n)], psw := if w = 0 then 0x00 else 0x80, cs := true }
  | .srlRnRm n m => { regs := [(1, n)], psw := if regCount m s = 0 then 0x00 else 0x80, cs := true }
  | .srlRnWidth n w => { regs := [(1, n)], psw := if w = 0 then 0x00 else 0x80, cs := true }
  | .srlcRnRm n m => { regs := [(1, n)], psw := if regCount m s = 0 then 0x00 else 0x80, cs := true }
  | .srlcRnWidth n w => { regs := [(1, n)], psw := if w = 0 then 0x00 else 0x80, cs := true }
  | .lERnEA n => { regs := [(2, n)], psw := 0x60, load := some (offEA s, 2) }
  | .lERnEAInc n => { regs := [(2, n)], psw := 0x60, load := some (offEA s, 2), ea := true }
  | .lERnERm n m => { regs := [(2, n)], psw := 0x60, load := some (offReg m s, 2) }
  | .lERnDisp16ERm n m d => { regs := [(2, n)], psw := 0x60, load := some (offDisp16 m d s, 2) }
  | .lERnDisp6BP n d => { regs := [(2, n)], psw := 0x60, load := some (offBP d s, 2) }
  | .lERnDisp6FP n d => { regs := [(2, n)], psw := 0x60, load := some (offFP d s, 2) }
  | .lERnDadr n a => { regs := [(2, n)], psw := 0x60, load := some (a, 2) }
  | .lRnEA n => { regs := [(1, n)], psw := 0x60, load := some (offEA s, 1) }
  | .lRnEAInc n => { regs := [(1, n)], psw := 0x60, load := some (offEA s, 1), ea := true }
  | .lRnERm n m => { regs := [(1, n)], psw := 0x60, load := some (offReg m s, 1) }
  | .lRnDisp16ERm n m d => { regs := [(1, n)], psw := 0x60, load := some (offDisp16 m d s, 1) }
  | .lRnDisp6BP n d => { regs := [(1, n)], psw := 0x60, load := some (offBP d s, 1) }
  | .lRnDisp6FP n d => { regs := [(1, n)], psw := 0x60, load := some (offFP d s, 1) }
  | .lRnDadr n a => { regs := [(1, n)], psw := 0x60, load := some (a, 1) }
  | .lXRnEA n => { regs := [(4, n)], psw := 0x60, load := some (offEA s, 4) }
  | .lXRnEAInc n => { regs := [(4, n)], psw := 0x60, load := some (offEA s, 4), ea := true }
  | .lQRnEA n => { regs := [(8, n)], psw := 0x60, load := some (offEA s, 8) }
  | .lQRnEAInc n => { regs := [(8, n)], psw := 0x60, load := some (offEA s, 8), ea := true }
  | .stERnEA _ => { store := some (offEA s, 2) }
  | .stERnEAInc _ => { store := some (offEA s, 2), ea := true }
  | .stERnERm _ m => { store := some (offReg m s, 2) }
  | .stERnDisp16ERm _ m d => { store := some (offDisp16 m d s, 2) }
  | .stERnDisp6BP _ d => { store := some (offBP d s, 2) }
  | .stERnDisp6FP _ d => { store := some (offFP d s, 2) }
  | .stERnDadr _ a => { store := some (a, 2) }
  | .stRnEA _ => { store := some (offEA s, 1) }
  | .stRnEAInc _ => { store := some (offEA s, 1), ea := true }
  | .stRnERm _ m => { store := some (offReg m s, 1) }
  | .stRnDisp16ERm _ m d => { store := some (offDisp16 m d s, 1) }
  | .stRnDisp6BP _ d => { store := some (offBP d s, 1) }
  | .stRnDisp6FP _ d => { store := some (offFP d s, 1) }
  | .stRnDadr _ a => { store := some (a, 1) }
  | .stXRnEA _ => { store := some (offEA s, 4) }
  | .stXRnEAInc _ => { store := some (offEA s, 4), ea := true }
  | .stQRnEA _ => { store := some (offEA s, 8) }
  | .stQRnEAInc _ => { store := some (offEA s, 8), ea := true }
  | .pushRn _ => { push := some (s.sp - 2, 1), sp := true }
  | .pushERn _ => { push := some (s.sp - 2, 2), sp := true }
  | .pushXRn _ => { push := some (s.sp - 4, 4), sp := true }
  | .pushQRn _ => { push := some (s.sp - 8, 8), sp := true }
  | .pushList l e p a => { push := some (s.sp - BitVec.ofNat 16 (2 * (pushedItems l e p a s).length), 2 * (pushedItems l e p a s).length), sp := true }
  | .popRn n => { regs := [(1, n)], sp := true }
  | .popERn n => { regs := [(2, n)], sp := true }
  | .popXRn n => { regs := [(4, n)], sp := true }
  | .popQRn n => { regs := [(8, n)], sp := true }
  | .popList l e p a => { psw := if e then 0xFF else 0x00, pc := p, csr := p, sp := true, ea := a, bank := l }
  | .movECSRRm _ => { bank := true }
  | .movEPSWRm _ => { bank := true }
  | .movELRERm _ => { bank := true }
  | .movERnELR n => { regs := [(2, n)] }
  | .movRnEPSW n => { regs := [(1, n)] }
  | .movPSWRm _ => { psw := 0xFF }
  | .movPSWImm8 _ => { psw := 0xFF }
  | .movRnECSR n => { regs := [(1, n)] }
  | .movRnPSW n => { regs := [(1, n)] }
  | .movERnSP n => { regs := [(2, n)] }
  | .movSPERm _ => { sp := true }
  | .addSPImm8 _ => { sp := true }
  | .leaERm _ => { ea := true }
  | .leaDisp16ERm _ _ => { ea := true }
  | .leaDadr _ => { ea := true }
  | .ei => { psw := 0x08 }
  | .di => { psw := 0x08 }
  | .sc => { psw := 0x80 }
  | .rc => { psw := 0x80 }
  | .cplc => { psw := 0x80 }
  | .bcond _ _ => { pc := true }
  | .bCadr _ _ => { pc := true, csr := true }
  | .blCadr _ _ => { pc := true, csr := true, bank := true }
  | .bERn _ => { pc := true }
  | .blERn _ => { pc := true, bank := true }
  | .rt => { pc := true, csr := true }
  | .rti => { psw := 0xFF, pc := true, csr := true }
  | .swi _ => { signal := true }
  | .brk => { signal := true }
  | .mulERnRm n _ => { regs := [(2, n)], psw := 0x40 }
  | .divERnRm n m => { regs := [(1, m), (2, n)], psw := if s.r m = 0 then 0x0B else 0xC0, pc := s.r m == 0, csr := s.r m == 0, bank := s.r m == 0, raises := s.r m == 0 }
  | .negRn n => { regs := [(1, n)], psw := 0xF4 }
  | .daaRn n => { regs := [(1, n)], psw := 0xE4 }
  | .dasRn n => { regs := [(1, n)], psw := 0xE4 }
  | .extbwER0 => { regs := [(2, 0)], psw := 0x60 }
  | .extbwER2 => { regs := [(2, 2)], psw := 0x60 }
  | .extbwER4 => { regs := [(2, 4)], psw := 0x60 }
  | .extbwER6 => { regs := [(2, 6)], psw := 0x60 }
  | .extbwER8 => { regs := [(2, 8)], psw := 0x60 }
  | .extbwER10 => { regs := [(2, 10)], psw := 0x60 }
  | .extbwER12 => { regs := [(2, 12)], psw := 0x60 }
  | .extbwER14 => { regs := [(2, 14)], psw := 0x60 }
  | .incEA => { store := some (s.ea, 1), psw := 0x74 }
  | .decEA => { store := some (s.ea, 1), psw := 0x74 }
  | .sbRn n _ => { regs := [(1, n)], psw := 0x40 }
  | .sbDbitadr _ a => { store := some (a, 1), psw := 0x40 }
  | .rbRn n _ => { regs := [(1, n)], psw := 0x40 }
  | .rbDbitadr _ a => { store := some (a, 1), psw := 0x40 }
  | .tbRn _ _ => { psw := 0x40 }
  | .tbDbitadr _ a => { load := some (a, 1), psw := 0x40 }
  | .nop => {}
  | .dsrImm8 _ => { dsr := true, seg := true }
  | .dsrRd _ => { dsr := true, seg := true }
  | .dsrDSR => { seg := true }

/-- The bytes an instruction stores to: segment, offset, how many. -/
def storedBytes (s : State) (i : Instr) : Option (Byte × Word × Nat) :=
  ((touches s i).store.map fun x => (s.seg, x)).or ((touches s i).push.map fun x => (0, x))

/-- The offset of the data access of an instruction that uses the segment in force (20_memory.md R64). -/
def dataOffset (s : State) (i : Instr) : Option Word :=
  ((touches s i).store.or (touches s i).load).map fun x => x.1

/-- The three cells of bank `l` replaced. -/
def withBank (s : State) (l : BitVec 2) (elr : Word) (ecsr epsw : Byte) : State :=
  ((s.setElr l elr).setEcsr l ecsr).setEpsw l epsw

/-- The number whose two decimal digits are the nibbles of a byte, as that byte: packed BCD. -/
def bcd (x : Nat) : Byte := BitVec.ofNat 8 (x / 10 * 16 + x % 10)

/-- Two instructions one after the other. -/
def execTwo (i j : Instr) (s : State) : Result :=
  match exec i s with
  | .next t => exec j t
  | .fault f => .fault f
  | .refused r => .refused r

end Sys2Proof
end

