-- ==== Sys2Proof/Certificates/Slice0/Obligations.lean ====
section
/-! DEFINITION. The statements for the provers. Each is about every state and operand it quantifies over; the terms they
are written in stand in Sys2Proof/Safety.lean. -/

open Sys2Proof Sys2Proof.Machine

/-- O1. For every well-formed instruction i and every run of bytes after it, the decoder reads i from the bytes of encode
i and leaves exactly the bytes after them. (30_encoding.md R91, 30_encoding.md R98) -/
def Obligations.DecodeEncode : Prop :=
  ∀ (i : Instr) (rest : List Byte), i.wellFormed = true → decode (encodeBytes i ++ rest) = .ok (i, rest)

/-- O2. If the decoder reads an instruction from a run of bytes, the instruction is well formed and its encoding is
exactly the bytes consumed: no bit of a word is ignored and no two words mean the same instruction. (30_encoding.md
R91, 30_encoding.md R95, 30_encoding.md R120) -/
def Obligations.EncodeDecode : Prop :=
  ∀ (bs rest : List Byte) (i : Instr), decode bs = .ok (i, rest) → i.wellFormed = true ∧ encodeBytes i ++ rest = bs

/-- O3. A first word, cut into its nibbles t n m f from the top, is illegal exactly outside the groups of R99 to R107: top
nibbles 0 to 7, C and D hold no illegal word, B and the even half of E none either, and the groups 8, 9, A, E and F
are listed. (30_encoding.md R122, 30_encoding.md R99, 30_encoding.md R100, 30_encoding.md R101, 30_encoding.md R102,
30_encoding.md R103, 30_encoding.md R104, 30_encoding.md R105, 30_encoding.md R106, 30_encoding.md R107) -/
def Obligations.IllegalWords : Prop :=
  ∀ w : Word,
    let t := (nib3 w).toNat
    let n := (nib2 w).toNat
    let m := (nib1 w).toNat
    let f := (nib0 w).toNat
    (decodeFirst w = .illegal ↔ ¬ (
      t ≤ 7 ∨ t = 0xC ∨ t = 0xD ∨
      (t = 8 ∧ (f ≠ 0xF ∨ m = 1 ∨ m = 3 ∨ m = 5 ∨ (m % 2 = 0 ∧ n = m + 1))) ∨
      (t = 9 ∧ ((f ≤ 1 ∧ (m = 1 ∨ m = 3 ∨ m = 5 ∨ m % 2 = 0)) ∨
        ((f = 2 ∨ f = 3) ∧ n % 2 = 0 ∧ (m = 1 ∨ m = 3 ∨ m = 5 ∨ m % 2 = 0)) ∨
        ((f = 4 ∨ f = 5) ∧ n % 4 = 0 ∧ (m = 3 ∨ m = 5)) ∨ ((f = 6 ∨ f = 7) ∧ n % 8 = 0 ∧ (m = 3 ∨ m = 5)) ∨
        ((f = 8 ∨ f = 9) ∧ m % 2 = 0) ∨ (0xA ≤ f ∧ f ≤ 0xE ∧ m < 8) ∨ (f = 0xF ∧ n = 0))) ∨
      (t = 0xA ∧ ((f ≤ 2 ∧ (m < 8 ∨ n = 0)) ∨ ((f = 3 ∨ f = 4 ∨ f = 7) ∧ m = 0) ∨
        ((f = 5 ∨ f = 0xD) ∧ m = 0 ∧ n % 2 = 0) ∨ ((f = 8 ∨ f = 9) ∧ n % 2 = 0 ∧ m % 2 = 0) ∨
        (f = 0xA ∧ ((n % 2 = 0 ∧ m = 1) ∨ (n = 1 ∧ m % 2 = 0))) ∨ ((f = 0xB ∨ f = 0xC ∨ f = 0xF) ∧ n = 0))) ∨
      (t = 0xB ∧ n % 2 = 0) ∨
      (t = 0xE ∧ (n % 2 = 0 ∨ n = 1 ∨ n = 3 ∨ n = 9 ∨ (n = 5 ∧ m < 4) ∨
        w = 0xED08 ∨ w = 0xEBF7 ∨ w = 0xED80 ∨ w = 0xEB7F)) ∨
      (t = 0xF ∧ ((f ≤ 1 ∧ m = 0) ∨ ((f = 2 ∨ f = 3 ∨ f = 0xA ∨ f = 0xB) ∧ n = 0 ∧ m % 2 = 0) ∨
        ((f = 4 ∨ f = 9) ∧ n % 2 = 0) ∨ ((f = 5 ∨ f = 6 ∨ f = 7) ∧ n % 2 = 0 ∧ m % 2 = 0) ∨
        (f = 0xC ∧ n = 0 ∧ m = 0) ∨
        (f = 0xE ∧ (m = 0 ∨ m = 4 ∨ m = 8 ∨ m = 0xC ∨ ((m = 1 ∨ m = 5) ∧ n % 2 = 0) ∨
          ((m = 2 ∨ m = 6) ∧ n % 4 = 0) ∨ ((m = 3 ∨ m = 7) ∧ n % 8 = 0))) ∨
        (f = 0xF ∧ ((n = 0xE ∧ (m ≤ 3 ∨ m = 8 ∨ m = 9 ∨ m = 0xC)) ∨ (n = 0xF ∧ m = 0xF)))))))

/-- O4. Ten words of the spec's examples, one of each family, written out from their encodings: ADD R1,R2; SLLC R1,#1; L
ER2,0x0010[ER6]; ST R0,[ER2]; PUSH LR,EPSW,ELR,EA; MOV ELR,ER2; BEQ +3; BL 0:1234H; SWI 5; DIV ER0,R2. A sanity
statement. (30_encoding.md R100, 30_encoding.md R101, 30_encoding.md R102, 30_encoding.md R104, 30_encoding.md R106,
30_encoding.md R107, 42_load_store.md R192, 45_branch.md R282, 95_test_vectors.md) -/
def Obligations.DecodedWords : Prop :=
  DecodesAs [0x8121] (.addRnRm 1 2) ∧ DecodesAs [0x911B] (.sllcRnWidth 1 1) ∧
  DecodesAs [0xA268, 0x0010] (.lERnDisp16ERm 2 6 0x0010) ∧ DecodesAs [0x9021] (.stRnERm 0 2) ∧
  DecodesAs [0xFFCE] (.pushList true true true true) ∧ DecodesAs [0xA20D] (.movELRERm 2) ∧
  DecodesAs [0xC903] (.bcond .eq 0x03) ∧ DecodesAs [0xF001, 0x1234] (.blCadr 0 0x1234) ∧
  DecodesAs [0xE505] (.swi 5) ∧ DecodesAs [0xF029] (.divERnRm 0 2)

/-- O5. On a running core with an even PC, if the bytes at CSR:PC are those of any number of DSR prefixes (none included,
fewer than 2^15) and then of a word that matches no row, the step is the fault undefinedInstruction of that word,
whatever follows it. The stopped state it leaves differs from the state before only in PC, past the word, in DSR, as
the prefixes leave it (R333), and in the model's own fields (no segment in force, no signal, stopped: the model's
choices, logs 5, 7, 10); a step of it is the fault coreStopped, and Reset() clears the stop. (30_encoding.md R121,
47_misc.md R333, 70_reset_and_hazards.md R380) -/
def Obligations.IllegalWordStops : Prop :=
  ∀ (s : State) (ps : List Instr) (w : Word), s.stopped = false → s.pc.getLsbD 0 = false →
    (∀ p ∈ ps, p.isDsrPrefix = true) → ps.length < 0x8000 → BytesAtPc s (ps.flatMap encodeBytes ++ bytesOfWords [w]) →
    decodeFirst w = .illegal →
    let left := { s with pc := s.pc + BitVec.ofNat 16 (2 * ps.length + 2), dsr := (ps.foldl (prefixEffect s) (s.dsr, 0)).1,
                         seg := 0, signal := none, stopped := true }
    step s = .fault (.undefinedInstruction w left) ∧ step left = .fault .coreStopped ∧ left.hostReset.stopped = false

/-- O6. On a running core with an even PC, if the bytes at CSR:PC are exactly those of a well-formed instruction i that is
no DSR prefix, the step is exec of i in the state whose PC is past those bytes, with no segment in force and no signal
yet (the model's field, log 5), and after it no segment is in force. (30_encoding.md R92, 10_state.md R27, 10_state.md
R37, 00_scope.md R12) -/
def Obligations.StepRunsInstruction : Prop :=
  ∀ (s : State) (bs : List Byte) (i : Instr), s.stopped = false → s.pc.getLsbD 0 = false → BytesAtPc s bs →
    decode bs = .ok (i, []) → i.wellFormed = true → i.isDsrPrefix = false →
    step s = onNext (fun t => t.setSeg 0)
      (exec i { s with pc := s.pc + BitVec.ofNat 16 bs.length, seg := 0, signal := none })

/-- O7. On a running core with an even PC, if the bytes at CSR:PC are those of any number of DSR prefixes (fewer than
2^15, all a segment can hold: log 6) and then of an instruction that is no prefix, one step executes them all: it is
exec of that instruction with PC past all the bytes and with DSR and the segment in force as the prefixes leave them,
one after the other, and no signal yet (the model's field, log 5), and after it no segment is in force. If instead
every word of the code segment is a DSR prefix, so that the step of R333 never ends, the model's outcome is the fault
endlessPrefixes (log 6). (70_reset_and_hazards.md R391, 47_misc.md R333, 30_encoding.md R92) -/
def Obligations.StepRunsPrefixes : Prop :=
  (∀ (s : State) (ps : List Instr) (i : Instr), s.stopped = false → s.pc.getLsbD 0 = false →
    (∀ p ∈ ps, p.isDsrPrefix = true) → ps.length < 0x8000 → i.wellFormed = true → i.isDsrPrefix = false →
    BytesAtPc s (ps.flatMap encodeBytes ++ encodeBytes i) →
    let x := ps.foldl (prefixEffect s) (s.dsr, 0)
    step s = onNext (fun t => t.setSeg 0)
      (exec i { s with pc := s.pc + BitVec.ofNat 16 (2 * ps.length + (encodeBytes i).length), dsr := x.1, seg := x.2, signal := none })) ∧
  ∀ s : State, s.stopped = false → s.pc.getLsbD 0 = false →
    (∀ off : Word, off.getLsbD 0 = false → ∃ w p, dataRead s.mem s.csr 2 off = .ok w ∧ decodeFirst w = .whole p ∧ p.isDsrPrefix = true) →
    step s = .fault .endlessPrefixes

/-- O8. For widths 1, 2, 4 and 8 in a segment that answers: a read gives the value whose byte j is the byte at offset off
+ j (mod 2^16) of the segment; a write stores byte j of the value there and changes no other place, a read of the same
bytes gives the value back and a one-byte read at off + j its byte j; writing the bytes from the highest offset down,
as PUSH does, gives the same memory. (20_memory.md R66, 20_memory.md R67) -/
def Obligations.DataAccessBytes : Prop :=
  ∀ (m : Memory) (seg : Byte) (off : Word) (k : Nat) (v : BitVec (8 * k)), (k = 1 ∨ k = 2 ∨ k = 4 ∨ k = 8) →
    segmentAnswers seg → Memory.wf m = true →
    (∃ x, dataRead m seg k off = .ok x ∧
      ∀ j < k, ∃ p, physical (address seg (off + BitVec.ofNat 16 j)) = some p ∧ x.extractLsb' (8 * j) 8 = Memory.read m p) ∧
    ∃ m', dataWrite m seg k off v = .ok m' ∧ StoredAt m seg off k v m' ∧ dataRead m' seg k off = .ok v ∧
      (∀ j < k, dataRead m' seg 1 (off + BitVec.ofNat 16 j) = .ok (v.extractLsb' (8 * j) 8)) ∧
      dataWriteDown m seg off k v = .ok m'

/-- O9. The address is segment times 2^16 plus offset. Below 2^20 it is its own place; above, the OPEN parameter MemHigh
decides: refused, the address modulo 2^20 (the model's reading of mirror, log 3), or its own place. (20_memory.md R61,
00_scope.md R8, 92_eei_decisions.md D6) -/
def Obligations.AddressPlaces : Prop :=
  (∀ (seg : Byte) (off : Word), (address seg off).toNat = seg.toNat * 2 ^ 16 + off.toNat) ∧
  ∀ a : Address, (a.toNat < 2 ^ 20 → physical a = some a.toNat) ∧
    (2 ^ 20 ≤ a.toNat → physical a = match Config.memHigh with
      | .refuse => none
      | .mirror => some (a.toNat % 2 ^ 20)
      | .plain => some a.toNat)

/-- O10. With an even PC in a code segment that answers, the fetch gives the word whose low byte is at absolute address A
= CSR:PC and whose high byte is at A + 1, which lies in the same segment; PC becomes PC + 2 mod 2^16 and nothing else
changes. (20_memory.md R63) -/
def Obligations.FetchReadsWord : Prop :=
  ∀ s : State, s.pc.getLsbD 0 = false → segmentAnswers s.csr →
    ∃ p q, physical (address s.csr s.pc) = some p ∧ physical (address s.csr s.pc + 1) = some q ∧
      (address s.csr s.pc + 1).toNat / 2 ^ 16 = s.csr.toNat ∧
      fetch16 s = .ok (Memory.read s.mem q ++ Memory.read s.mem p, { s with pc := BitVec.ofNat 16 ((s.pc.toNat + 2) % 2 ^ 16) })

/-- O11. The offset of [ERm] is ER[m], that of Dadr the second word, that of Disp16[ERm] the sum modulo 2^16; Disp6[BP]
and Disp6[FP] add a signed displacement of -32 to 31 to ER12 and ER14; [EA] and [EA+] access at EA unrounded. The bump
adds 1 for a byte; for 2, 4 and 8 bytes it adds k and clears bit 0, so an even EA rises by k and an odd one by k - 1.
(42_load_store.md R186, 42_load_store.md R187) -/
def Obligations.AddressingModes : Prop :=
  (∀ (s : State) (m : RegNum) (d : Word), offEA s = s.ea ∧ offReg m s = s.er m ∧ offDadr d s = d ∧
      (offDisp16 m d s).toNat = ((s.er m).toNat + d.toNat) % 2 ^ 16) ∧
  (∀ (s : State) (d : BitVec 6), -32 ≤ d.toInt ∧ d.toInt ≤ 31 ∧
      ((offBP d s).toNat : Int) = ((s.er 12).toNat + d.toInt) % 2 ^ 16 ∧
      ((offFP d s).toNat : Int) = ((s.er 14).toNat + d.toInt) % 2 ^ 16) ∧
  (∀ ea : Word, bump 1 ea = ea + 1) ∧
  ∀ (ea : Word) (k : Nat), (k = 2 ∨ k = 4 ∨ k = 8) → (bump k ea).toNat = (ea.toNat + k) % 2 ^ 16 / 2 * 2 ∧
    (ea.getLsbD 0 = false → bump k ea = ea + BitVec.ofNat 16 k) ∧ (ea.getLsbD 0 = true → bump k ea = ea + BitVec.ofNat 16 k - 1)

/-- O12. ER, XR and QR read the cells from the lowest register up, higher register in the higher byte; writing a view
writes those cells and no other. LR and ELR[0], LCSR and ECSR[0], PSW and EPSW[0] are one cell each: reads agree, and
a write through either name is read through the other. (10_state.md R22, 10_state.md R43) -/
def Obligations.RegisterViews : Prop :=
  (∀ (s : State) (n : RegNum), s.er n = s.r (n + 1) ++ s.r n ∧
      s.group 4 n = s.r (n + 3) ++ s.r (n + 2) ++ s.r (n + 1) ++ s.r n ∧
      s.group 8 n = s.r (n + 7) ++ s.r (n + 6) ++ s.r (n + 5) ++ s.r (n + 4) ++ s.r (n + 3) ++ s.r (n + 2) ++ s.r (n + 1) ++ s.r n) ∧
  (∀ (s : State) (k : Nat) (n : RegNum) (v : BitVec (8 * k)), (k = 1 ∨ k = 2 ∨ k = 4 ∨ k = 8) →
      GroupWritten k n v s (s.setGroup k n v) ∧ (s.setGroup k n v).group k n = v ∧ OnlyRegs s (s.setGroup k n v)) ∧
  (∀ s : State, s.lr = s.elrOf 0 ∧ s.lcsr = s.ecsrOf 0 ∧ s.psw = s.epswOf 0) ∧
  ∀ (s : State) (lr : Word) (lcsr p : Byte), (s.setElr 0 lr).lr = lr ∧ (s.setEcsr 0 lcsr).lcsr = lcsr ∧ (s.setEpsw 0 p).psw = p ∧
    (s.setLink lr lcsr).elrOf 0 = lr ∧ (s.setLink lr lcsr).ecsrOf 0 = lcsr ∧ (s.setPsw p).epswOf 0 = p

/-- O13. Each helper's result is the exact sum or difference reduced to the width; C is the carry or borrow, Z and S
describe the result, HC is the carry out of (borrow into) bit 3 or 11, and OV is the rule's condition on the sign
bits, which is exactly that the signed result does not fit. (40_arithmetic.md R130, 40_arithmetic.md R131,
40_arithmetic.md R132, 40_arithmetic.md R133) -/
def Obligations.AddSubtractHelpers : Prop :=
  (∀ (a b : Byte) (cin : Bool), let x := add8 a b cin
      x.1 = BitVec.ofNat 8 (a.toNat + b.toNat + cin.toNat) ∧
      x.2 = { c := decide (256 ≤ a.toNat + b.toNat + cin.toNat), z := x.1 == 0, s := x.1.getLsbD 7,
              ov := a.getLsbD 7 == b.getLsbD 7 && x.1.getLsbD 7 != a.getLsbD 7,
              hc := decide (16 ≤ a.toNat % 16 + b.toNat % 16 + cin.toNat) } ∧
      x.2.ov = outOfRange 8 (a.toInt + b.toInt + cin.toNat)) ∧
  (∀ (a b : Byte) (bin : Bool), let x := sub8 a b bin
      x.1 = BitVec.ofInt 8 ((a.toNat : Int) - b.toNat - bin.toNat) ∧
      x.2 = { c := decide (a.toNat < b.toNat + bin.toNat), z := x.1 == 0, s := x.1.getLsbD 7,
              ov := a.getLsbD 7 != b.getLsbD 7 && x.1.getLsbD 7 != a.getLsbD 7,
              hc := decide (a.toNat % 16 < b.toNat % 16 + bin.toNat) } ∧
      x.2.ov = outOfRange 8 (a.toInt - b.toInt - bin.toNat)) ∧
  (∀ a b : Word, let x := add16 a b
      x.1 = BitVec.ofNat 16 (a.toNat + b.toNat) ∧
      x.2 = { c := decide (65536 ≤ a.toNat + b.toNat), z := x.1 == 0, s := x.1.getLsbD 15,
              ov := a.getLsbD 15 == b.getLsbD 15 && x.1.getLsbD 15 != a.getLsbD 15,
              hc := decide (4096 ≤ a.toNat % 4096 + b.toNat % 4096) } ∧
      x.2.ov = outOfRange 16 (a.toInt + b.toInt)) ∧
  ∀ a b : Word, let x := sub16 a b
      x.1 = BitVec.ofInt 16 ((a.toNat : Int) - b.toNat) ∧
      x.2 = { c := decide (a.toNat < b.toNat), z := x.1 == 0, s := x.1.getLsbD 15,
              ov := a.getLsbD 15 != b.getLsbD 15 && x.1.getLsbD 15 != a.getLsbD 15,
              hc := decide (a.toNat % 4096 < b.toNat % 4096) } ∧
      x.2.ov = outOfRange 16 (a.toInt - b.toInt)

/-- O14. Each of the four forms, for every register number and immediate, n = m included: its word, R[n] as the sum modulo
256 with the carry from before where the form has it, C, Z, S, OV and HC of the exact sum, and every other register,
PSW bit, bank and memory byte as before. (40_arithmetic.md R135, 40_arithmetic.md R136, 40_arithmetic.md R139,
40_arithmetic.md R140) -/
def Obligations.ByteAddition : Prop :=
  (∀ n m : RegNum, WritesByte [(0x8#4 ++ n ++ m ++ 0x1#4 : Word)] (.addRnRm n m) n
      (fun s => BitVec.ofNat 8 ((s.r n).toNat + (s.r m).toNat)) (fun s => pswSum 4 s.psw (s.r n) (s.r m) false)) ∧
  (∀ (n : RegNum) (imm : Byte), WritesByte [(0x1#4 ++ n ++ imm : Word)] (.addRnImm8 n imm) n
      (fun s => BitVec.ofNat 8 ((s.r n).toNat + imm.toNat)) (fun s => pswSum 4 s.psw (s.r n) imm false)) ∧
  (∀ n m : RegNum, WritesByte [(0x8#4 ++ n ++ m ++ 0x6#4 : Word)] (.addcRnRm n m) n
      (fun s => BitVec.ofNat 8 ((s.r n).toNat + (s.r m).toNat + s.c.toNat)) (fun s => pswSum 4 s.psw (s.r n) (s.r m) s.c)) ∧
  ∀ (n : RegNum) (imm : Byte), WritesByte [(0x6#4 ++ n ++ imm : Word)] (.addcRnImm8 n imm) n
      (fun s => BitVec.ofNat 8 ((s.r n).toNat + imm.toNat + s.c.toNat)) (fun s => pswSum 4 s.psw (s.r n) imm s.c)

/-- O15. Each form, for every register number: its word, R[n] as the difference modulo 256 (NEG: from 0; SUBC: with the
borrow from before), C, Z, S, OV and HC of the exact difference, and everything else as before. (40_arithmetic.md
R156, 40_arithmetic.md R157, 47_misc.md R312) -/
def Obligations.ByteSubtraction : Prop :=
  (∀ n m : RegNum, WritesByte [(0x8#4 ++ n ++ m ++ 0x8#4 : Word)] (.subRnRm n m) n
      (fun s => BitVec.ofInt 8 ((s.r n).toNat - (s.r m).toNat)) (fun s => pswDifference 4 s.psw (s.r n) (s.r m) false)) ∧
  (∀ n m : RegNum, WritesByte [(0x8#4 ++ n ++ m ++ 0x9#4 : Word)] (.subcRnRm n m) n
      (fun s => BitVec.ofInt 8 ((s.r n).toNat - (s.r m).toNat - s.c.toNat)) (fun s => pswDifference 4 s.psw (s.r n) (s.r m) s.c)) ∧
  ∀ n : RegNum, WritesByte [(0x8#4 ++ n ++ 0x5F#8 : Word)] (.negRn n) n
      (fun s => BitVec.ofInt 8 (-((s.r n).toNat : Int))) (fun s => pswDifference 4 s.psw 0#8 (s.r n) false)

/-- O16. Each of the four forms: its word, C, Z, S, OV and HC of the exact difference (CMPC with the borrow from before),
and everything else as before. After CMP, C says below, Z equal, and OV xor S below as signed numbers.
(40_arithmetic.md R143, 40_arithmetic.md R144, 40_arithmetic.md R145, 40_arithmetic.md R146) -/
def Obligations.ByteCompare : Prop :=
  (∀ n m : RegNum, WritesPsw [(0x8#4 ++ n ++ m ++ 0x7#4 : Word)] (.cmpRnRm n m)
      (fun s => pswDifference 4 s.psw (s.r n) (s.r m) false)) ∧
  (∀ (n : RegNum) (imm : Byte), WritesPsw [(0x7#4 ++ n ++ imm : Word)] (.cmpRnImm8 n imm)
      (fun s => pswDifference 4 s.psw (s.r n) imm false)) ∧
  (∀ n m : RegNum, WritesPsw [(0x8#4 ++ n ++ m ++ 0x5#4 : Word)] (.cmpcRnRm n m)
      (fun s => pswDifference 4 s.psw (s.r n) (s.r m) s.c)) ∧
  (∀ (n : RegNum) (imm : Byte), WritesPsw [(0x5#4 ++ n ++ imm : Word)] (.cmpcRnImm8 n imm)
      (fun s => pswDifference 4 s.psw (s.r n) imm s.c)) ∧
  ∀ (p a b : Byte), let q := pswDifference 4 p a b false
    (pswC q = true ↔ a.toNat < b.toNat) ∧ (pswZ q = true ↔ a = b) ∧ ((pswOV q ^^ pswS q) = true ↔ a.toInt < b.toInt)

/-- O17. Each of the eight forms, register and immediate: its word, R[n] as the rule says, Z and S of the result, C, OV,
HC, MIE and ELEVEL and everything else as before. (40_arithmetic.md R141, 40_arithmetic.md R142, 40_arithmetic.md
R151, 40_arithmetic.md R152, 40_arithmetic.md R153, 40_arithmetic.md R154, 40_arithmetic.md R149, 40_arithmetic.md
R150, 40_arithmetic.md R134) -/
def Obligations.ByteLogicAndMoves : Prop :=
  (∀ n m : RegNum, WritesByte [(0x8#4 ++ n ++ m ++ 0x2#4 : Word)] (.andRnRm n m) n
      (fun s => s.r n &&& s.r m) (fun s => pswOfValue s.psw (s.r n &&& s.r m))) ∧
  (∀ (n : RegNum) (imm : Byte), WritesByte [(0x2#4 ++ n ++ imm : Word)] (.andRnImm8 n imm) n
      (fun s => s.r n &&& imm) (fun s => pswOfValue s.psw (s.r n &&& imm))) ∧
  (∀ n m : RegNum, WritesByte [(0x8#4 ++ n ++ m ++ 0x3#4 : Word)] (.orRnRm n m) n
      (fun s => s.r n ||| s.r m) (fun s => pswOfValue s.psw (s.r n ||| s.r m))) ∧
  (∀ (n : RegNum) (imm : Byte), WritesByte [(0x3#4 ++ n ++ imm : Word)] (.orRnImm8 n imm) n
      (fun s => s.r n ||| imm) (fun s => pswOfValue s.psw (s.r n ||| imm))) ∧
  (∀ n m : RegNum, WritesByte [(0x8#4 ++ n ++ m ++ 0x4#4 : Word)] (.xorRnRm n m) n
      (fun s => s.r n ^^^ s.r m) (fun s => pswOfValue s.psw (s.r n ^^^ s.r m))) ∧
  (∀ (n : RegNum) (imm : Byte), WritesByte [(0x4#4 ++ n ++ imm : Word)] (.xorRnImm8 n imm) n
      (fun s => s.r n ^^^ imm) (fun s => pswOfValue s.psw (s.r n ^^^ imm))) ∧
  (∀ n m : RegNum, WritesByte [(0x8#4 ++ n ++ m ++ 0x0#4 : Word)] (.movRnRm n m) n
      (fun s => s.r m) (fun s => pswOfValue s.psw (s.r m))) ∧
  (∀ (n : RegNum) (imm : Byte), WritesByte [(0x0#4 ++ n ++ imm : Word)] (.movRnImm8 n imm) n
      (fun _ => imm) (fun s => pswOfValue s.psw imm)) ∧
  ∀ (p : Byte) (w : Nat) (v : BitVec w), withZS p v = packPsw (pswC p) (v == 0#w) v.msb (pswOV p) (pswMIE p) (pswHC p) (pswLevel p)

/-- O18. The five forms on every pair (even register numbers), n = m included: the word, ER[n] as the 16-bit sum (with the
sign-extended imm7), or the moved value, or unchanged for CMP; five flags of the exact sum or difference with the
half-carry at bit 11, or Z and S for the moves; everything else as before. (40_arithmetic.md R137, 40_arithmetic.md
R138, 40_arithmetic.md R155, 40_arithmetic.md R147, 40_arithmetic.md R148) -/
def Obligations.PairArithmetic : Prop :=
  (∀ n m : RegNum, isER n = true → isER m = true →
      WritesPair [(0xF#4 ++ n ++ m ++ 0x6#4 : Word)] (.addERnERm n m) n
        (fun s => BitVec.ofNat 16 ((s.er n).toNat + (s.er m).toNat)) (fun s => pswSum 12 s.psw (s.er n) (s.er m) false) ∧
      WritesPsw [(0xF#4 ++ n ++ m ++ 0x7#4 : Word)] (.cmpERnERm n m) (fun s => pswDifference 12 s.psw (s.er n) (s.er m) false) ∧
      WritesPair [(0xF#4 ++ n ++ m ++ 0x5#4 : Word)] (.movERnERm n m) n (fun s => s.er m) (fun s => pswOfValue s.psw (s.er m))) ∧
  ∀ (n : RegNum) (imm : BitVec 7), isER n = true →
      WritesPair [(0xE#4 ++ n ++ 1#1 ++ imm : Word)] (.addERnImm7 n imm) n
        (fun s => BitVec.ofInt 16 ((s.er n).toNat + imm.toInt))
        (fun s => pswSum 12 s.psw (s.er n) (BitVec.ofInt 16 imm.toInt) false) ∧
      WritesPair [(0xE#4 ++ n ++ 0#1 ++ imm : Word)] (.movERnImm7 n imm) n
        (fun _ => BitVec.ofInt 16 imm.toInt) (fun s => pswOfValue s.psw (BitVec.ofInt 16 imm.toInt))

/-- O19. Each of the six forms: its word; a count of 0 (the low three bits of Rm or the width field) changes nothing; a
count w of 1 to 7 multiplies by 2^w modulo 256, divides by 2^w, or divides the signed value by 2^w rounding down, and
C and CS receive the last bit out; Z, S, OV, HC and everything else as before. (41_shift.md R171, 41_shift.md R172,
41_shift.md R175, 41_shift.md R176, 41_shift.md R177, 41_shift.md R178) -/
def Obligations.ShiftsByCount : Prop :=
  (∀ n m : RegNum, ShiftsBy [(0x8#4 ++ n ++ m ++ 0xA#4 : Word)] (.sllRnRm n m) n (fun s => (s.r m).extractLsb' 0 3)
      (fun x _ w => x.toNat * 2 ^ w % 256) (fun x _ w => x.getLsbD (8 - w))) ∧
  (∀ (n : RegNum) (w : BitVec 3), ShiftsBy [(0x9#4 ++ n ++ 0#1 ++ w ++ 0xA#4 : Word)] (.sllRnWidth n w) n (fun _ => w)
      (fun x _ w => x.toNat * 2 ^ w % 256) (fun x _ w => x.getLsbD (8 - w))) ∧
  (∀ n m : RegNum, ShiftsBy [(0x8#4 ++ n ++ m ++ 0xC#4 : Word)] (.srlRnRm n m) n (fun s => (s.r m).extractLsb' 0 3)
      (fun x _ w => x.toNat / 2 ^ w) (fun x _ w => x.getLsbD (w - 1))) ∧
  (∀ (n : RegNum) (w : BitVec 3), ShiftsBy [(0x9#4 ++ n ++ 0#1 ++ w ++ 0xC#4 : Word)] (.srlRnWidth n w) n (fun _ => w)
      (fun x _ w => x.toNat / 2 ^ w) (fun x _ w => x.getLsbD (w - 1))) ∧
  (∀ n m : RegNum, ShiftsBy [(0x8#4 ++ n ++ m ++ 0xE#4 : Word)] (.sraRnRm n m) n (fun s => (s.r m).extractLsb' 0 3)
      (fun x _ w => (x.toInt / 2 ^ w % 256).toNat) (fun x _ w => x.getLsbD (w - 1))) ∧
  (∀ (n : RegNum) (w : BitVec 3), ShiftsBy [(0x9#4 ++ n ++ 0#1 ++ w ++ 0xE#4 : Word)] (.sraRnWidth n w) n (fun _ => w)
      (fun x _ w => (x.toInt / 2 ^ w % 256).toNat) (fun x _ w => x.getLsbD (w - 1)))

/-- O20. Each of the four forms: its word; a count of 0 changes nothing; a count w rotates the 9-bit value CS : Rn left,
or Rn : CS right, by w places in closed form, and C receives the new CS; the old C is not an input; everything else as
before. (41_shift.md R173, 41_shift.md R174, 41_shift.md R179, 41_shift.md R180) -/
def Obligations.RotatesThroughCS : Prop :=
  (∀ n m : RegNum, ShiftsBy [(0x8#4 ++ n ++ m ++ 0xB#4 : Word)] (.sllcRnRm n m) n (fun s => (s.r m).extractLsb' 0 3)
      (fun x cs w => rotatedLeft x cs w % 256) (fun x cs w => (rotatedLeft x cs w).testBit 8)) ∧
  (∀ (n : RegNum) (w : BitVec 3), ShiftsBy [(0x9#4 ++ n ++ 0#1 ++ w ++ 0xB#4 : Word)] (.sllcRnWidth n w) n (fun _ => w)
      (fun x cs w => rotatedLeft x cs w % 256) (fun x cs w => (rotatedLeft x cs w).testBit 8)) ∧
  (∀ n m : RegNum, ShiftsBy [(0x8#4 ++ n ++ m ++ 0xD#4 : Word)] (.srlcRnRm n m) n (fun s => (s.r m).extractLsb' 0 3)
      (fun x cs w => rotatedRight x cs w / 2) (fun x cs w => (rotatedRight x cs w).testBit 0)) ∧
  (∀ (n : RegNum) (w : BitVec 3), ShiftsBy [(0x9#4 ++ n ++ 0#1 ++ w ++ 0xD#4 : Word)] (.srlcRnWidth n w) n (fun _ => w)
      (fun x cs w => rotatedRight x cs w / 2) (fun x cs w => (rotatedRight x cs w).testBit 0))

/-- O21. On any pair ER[n], n even, from any state: SLL Rn,#1 then SLLC R(n+1),#1 doubles the pair modulo 2^16; SRL
R(n+1),#1 then SRLC Rn,#1 halves it; SRA R(n+1),#1 then SRLC Rn,#1 halves it as a signed number, rounding down. C and
CS hold the bit that left the pair. (41_shift.md R181) -/
def Obligations.PairShiftIdiom : Prop :=
  ∀ (n : RegNum) (s : State), isER n = true →
    (∃ t, execTwo (.sllRnWidth n 1) (.sllcRnWidth (n + 1) 1) s = .next t ∧
      t.er n = BitVec.ofNat 16 (2 * (s.er n).toNat) ∧ t.c = (s.er n).msb ∧ t.cs = (s.er n).msb) ∧
    (∃ t, execTwo (.srlRnWidth (n + 1) 1) (.srlcRnWidth n 1) s = .next t ∧
      t.er n = BitVec.ofNat 16 ((s.er n).toNat / 2) ∧ t.c = (s.er n).getLsbD 0 ∧ t.cs = (s.er n).getLsbD 0) ∧
    ∃ t, execTwo (.sraRnWidth (n + 1) 1) (.srlcRnWidth n 1) s = .next t ∧
      t.er n = BitVec.ofInt 16 ((s.er n).toInt / 2) ∧ t.c = (s.er n).getLsbD 0 ∧ t.cs = (s.er n).getLsbD 0

/-- O22. Each of the ten forms on every legal register: its word; in a segment that answers it completes, the value is the
data read of k bytes at the offset of the mode in the segment in force, the k cells from R[n] hold it, Z and S
describe it, EA is bumped by [EA+] alone, and everything else is as before, memory included. (42_load_store.md R189,
42_load_store.md R190, 42_load_store.md R191, 42_load_store.md R196, 42_load_store.md R197, 42_load_store.md R198,
42_load_store.md R203, 42_load_store.md R204, 42_load_store.md R205, 42_load_store.md R206) -/
def Obligations.LoadsIndirect : Prop :=
  (∀ n : RegNum, isER n = true → Loads [(0x9#4 ++ n ++ 0x3#4 ++ 0x2#4 : Word)] (.lERnEA n) 2 n offEA State.ea) ∧
  (∀ n : RegNum, isER n = true → Loads [(0x9#4 ++ n ++ 0x5#4 ++ 0x2#4 : Word)] (.lERnEAInc n) 2 n offEA (fun s => bump 2 s.ea)) ∧
  (∀ n m : RegNum, isER n = true → isER m = true → Loads [(0x9#4 ++ n ++ m ++ 0x2#4 : Word)] (.lERnERm n m) 2 n (offReg m) State.ea) ∧
  (∀ n : RegNum, Loads [(0x9#4 ++ n ++ 0x3#4 ++ 0x0#4 : Word)] (.lRnEA n) 1 n offEA State.ea) ∧
  (∀ n : RegNum, Loads [(0x9#4 ++ n ++ 0x5#4 ++ 0x0#4 : Word)] (.lRnEAInc n) 1 n offEA (fun s => bump 1 s.ea)) ∧
  (∀ n m : RegNum, isER m = true → Loads [(0x9#4 ++ n ++ m ++ 0x0#4 : Word)] (.lRnERm n m) 1 n (offReg m) State.ea) ∧
  (∀ n : RegNum, isXR n = true → Loads [(0x9#4 ++ n ++ 0x3#4 ++ 0x4#4 : Word)] (.lXRnEA n) 4 n offEA State.ea) ∧
  (∀ n : RegNum, isXR n = true → Loads [(0x9#4 ++ n ++ 0x5#4 ++ 0x4#4 : Word)] (.lXRnEAInc n) 4 n offEA (fun s => bump 4 s.ea)) ∧
  (∀ n : RegNum, isQR n = true → Loads [(0x9#4 ++ n ++ 0x3#4 ++ 0x6#4 : Word)] (.lQRnEA n) 8 n offEA State.ea) ∧
  (∀ n : RegNum, isQR n = true → Loads [(0x9#4 ++ n ++ 0x5#4 ++ 0x6#4 : Word)] (.lQRnEAInc n) 8 n offEA (fun s => bump 8 s.ea))

/-- O23. Each of the eight forms on every legal register: its words; in a segment that answers it completes, the value is
the data read of k bytes at the offset of the mode in the segment in force, R[n] or ER[n] holds it, Z and S describe
it, and everything else is as before. (42_load_store.md R192, 42_load_store.md R193, 42_load_store.md R194,
42_load_store.md R195, 42_load_store.md R199, 42_load_store.md R200, 42_load_store.md R201, 42_load_store.md R202) -/
def Obligations.LoadsDisplaced : Prop :=
  (∀ (n m : RegNum) (d : Word), isER n = true → isER m = true → Loads [(0xA#4 ++ n ++ m ++ 0x8#4 : Word), d] (.lERnDisp16ERm n m d) 2 n (offDisp16 m d) State.ea) ∧
  (∀ (n : RegNum) (d : BitVec 6), isER n = true → Loads [(0xB#4 ++ n ++ 0#2 ++ d : Word)] (.lERnDisp6BP n d) 2 n (offBP d) State.ea) ∧
  (∀ (n : RegNum) (d : BitVec 6), isER n = true → Loads [(0xB#4 ++ n ++ 1#2 ++ d : Word)] (.lERnDisp6FP n d) 2 n (offFP d) State.ea) ∧
  (∀ (n : RegNum) (a : Word), isER n = true → Loads [(0x9#4 ++ n ++ 0x1#4 ++ 0x2#4 : Word), a] (.lERnDadr n a) 2 n (fun _ => a) State.ea) ∧
  (∀ (n m : RegNum) (d : Word), isER m = true → Loads [(0x9#4 ++ n ++ m ++ 0x8#4 : Word), d] (.lRnDisp16ERm n m d) 1 n (offDisp16 m d) State.ea) ∧
  (∀ (n : RegNum) (d : BitVec 6), Loads [(0xD#4 ++ n ++ 0#2 ++ d : Word)] (.lRnDisp6BP n d) 1 n (offBP d) State.ea) ∧
  (∀ (n : RegNum) (d : BitVec 6), Loads [(0xD#4 ++ n ++ 1#2 ++ d : Word)] (.lRnDisp6FP n d) 1 n (offFP d) State.ea) ∧
  (∀ (n : RegNum) (a : Word), Loads [(0x9#4 ++ n ++ 0x1#4 ++ 0x0#4 : Word), a] (.lRnDadr n a) 1 n (fun _ => a) State.ea)

/-- O24. Each of the ten forms on every legal register: its word; in a segment that answers it completes, the k bytes of
the register group stand at the offset of the mode in the segment in force, every other byte of memory is as before,
EA is bumped by [EA+] alone, and no flag and no other state changes. (42_load_store.md R207, 42_load_store.md R208,
42_load_store.md R209, 42_load_store.md R214, 42_load_store.md R215, 42_load_store.md R216, 42_load_store.md R221,
42_load_store.md R222, 42_load_store.md R223, 42_load_store.md R224) -/
def Obligations.StoresIndirect : Prop :=
  (∀ n : RegNum, isER n = true → Stores [(0x9#4 ++ n ++ 0x3#4 ++ 0x3#4 : Word)] (.stERnEA n) 2 n offEA State.ea) ∧
  (∀ n : RegNum, isER n = true → Stores [(0x9#4 ++ n ++ 0x5#4 ++ 0x3#4 : Word)] (.stERnEAInc n) 2 n offEA (fun s => bump 2 s.ea)) ∧
  (∀ n m : RegNum, isER n = true → isER m = true → Stores [(0x9#4 ++ n ++ m ++ 0x3#4 : Word)] (.stERnERm n m) 2 n (offReg m) State.ea) ∧
  (∀ n : RegNum, Stores [(0x9#4 ++ n ++ 0x3#4 ++ 0x1#4 : Word)] (.stRnEA n) 1 n offEA State.ea) ∧
  (∀ n : RegNum, Stores [(0x9#4 ++ n ++ 0x5#4 ++ 0x1#4 : Word)] (.stRnEAInc n) 1 n offEA (fun s => bump 1 s.ea)) ∧
  (∀ n m : RegNum, isER m = true → Stores [(0x9#4 ++ n ++ m ++ 0x1#4 : Word)] (.stRnERm n m) 1 n (offReg m) State.ea) ∧
  (∀ n : RegNum, isXR n = true → Stores [(0x9#4 ++ n ++ 0x3#4 ++ 0x5#4 : Word)] (.stXRnEA n) 4 n offEA State.ea) ∧
  (∀ n : RegNum, isXR n = true → Stores [(0x9#4 ++ n ++ 0x5#4 ++ 0x5#4 : Word)] (.stXRnEAInc n) 4 n offEA (fun s => bump 4 s.ea)) ∧
  (∀ n : RegNum, isQR n = true → Stores [(0x9#4 ++ n ++ 0x3#4 ++ 0x7#4 : Word)] (.stQRnEA n) 8 n offEA State.ea) ∧
  (∀ n : RegNum, isQR n = true → Stores [(0x9#4 ++ n ++ 0x5#4 ++ 0x7#4 : Word)] (.stQRnEAInc n) 8 n offEA (fun s => bump 8 s.ea))

/-- O25. Each of the eight forms on every legal register: its words; in a segment that answers it completes, the bytes of
R[n] or ER[n] stand at the offset of the mode in the segment in force, every other byte of memory is as before, and no
flag and no other state changes. (42_load_store.md R210, 42_load_store.md R211, 42_load_store.md R212,
42_load_store.md R213, 42_load_store.md R217, 42_load_store.md R218, 42_load_store.md R219, 42_load_store.md R220) -/
def Obligations.StoresDisplaced : Prop :=
  (∀ (n m : RegNum) (d : Word), isER n = true → isER m = true → Stores [(0xA#4 ++ n ++ m ++ 0x9#4 : Word), d] (.stERnDisp16ERm n m d) 2 n (offDisp16 m d) State.ea) ∧
  (∀ (n : RegNum) (d : BitVec 6), isER n = true → Stores [(0xB#4 ++ n ++ 2#2 ++ d : Word)] (.stERnDisp6BP n d) 2 n (offBP d) State.ea) ∧
  (∀ (n : RegNum) (d : BitVec 6), isER n = true → Stores [(0xB#4 ++ n ++ 3#2 ++ d : Word)] (.stERnDisp6FP n d) 2 n (offFP d) State.ea) ∧
  (∀ (n : RegNum) (a : Word), isER n = true → Stores [(0x9#4 ++ n ++ 0x1#4 ++ 0x3#4 : Word), a] (.stERnDadr n a) 2 n (fun _ => a) State.ea) ∧
  (∀ (n m : RegNum) (d : Word), isER m = true → Stores [(0x9#4 ++ n ++ m ++ 0x9#4 : Word), d] (.stRnDisp16ERm n m d) 1 n (offDisp16 m d) State.ea) ∧
  (∀ (n : RegNum) (d : BitVec 6), Stores [(0xD#4 ++ n ++ 2#2 ++ d : Word)] (.stRnDisp6BP n d) 1 n (offBP d) State.ea) ∧
  (∀ (n : RegNum) (d : BitVec 6), Stores [(0xD#4 ++ n ++ 3#2 ++ d : Word)] (.stRnDisp6FP n d) 1 n (offFP d) State.ea) ∧
  (∀ (n : RegNum) (a : Word), Stores [(0x9#4 ++ n ++ 0x1#4 ++ 0x1#4 : Word), a] (.stRnDadr n a) 1 n (fun _ => a) State.ea)

/-- O26. For every load, store, INC and DEC [EA], and bit instruction on memory, in a segment of 16 or more: where MemHigh
is refuse, the instruction is refused with the address of its first byte (the model's reading of a refused access:
nothing of the instruction happens, logs 3 and 12); otherwise it completes. Where MemHigh is refuse, a fetch in a code
segment of 16 or more is refused with the address CSR:PC, and the step of a running core is that refusal (logs 3 and
12). (00_scope.md R12, 20_memory.md R75, 00_scope.md R8, 20_memory.md R63) -/
def Obligations.RefusedAccess : Prop :=
  (∀ (i : Instr) (s : State) (off : Word), dataOffset s i = some off → 16 ≤ s.seg.toNat →
    (Config.memHigh = .refuse → exec i s = .refused (.memoryRefused (address s.seg off))) ∧
    (Config.memHigh ≠ .refuse → ∃ t, exec i s = .next t)) ∧
  ∀ s : State, 16 ≤ s.csr.toNat → Config.memHigh = .refuse →
    fetch16 s = .error (.memoryRefused (address s.csr s.pc)) ∧
    (s.stopped = false → step s = .refused (.memoryRefused (address s.csr s.pc)))

/-- O27. Each form on every legal register: its word; it always completes; SP falls by 2, 2, 4 or 8 modulo 2^16, the bytes
of the group stand from the new SP upwards in segment 0 whatever segment is in force, every other byte of memory, the
one above a pushed byte included, and everything else are as before. (43_stack.md R231, 43_stack.md R232, 43_stack.md
R233, 43_stack.md R234) -/
def Obligations.PushGroups : Prop :=
  (∀ n : RegNum, Pushes [(0xF#4 ++ n ++ 0x4E#8 : Word)] (.pushRn n) 1 n 2) ∧
  (∀ n : RegNum, isER n = true → Pushes [(0xF#4 ++ n ++ 0x5E#8 : Word)] (.pushERn n) 2 n 2) ∧
  (∀ n : RegNum, isXR n = true → Pushes [(0xF#4 ++ n ++ 0x6E#8 : Word)] (.pushXRn n) 4 n 4) ∧
  (∀ n : RegNum, isQR n = true → Pushes [(0xF#4 ++ n ++ 0x7E#8 : Word)] (.pushQRn n) 8 n 8)

/-- O28. Each form on every legal register: its word; it always completes; the group receives the bytes from SP upwards in
segment 0, SP rises by 2, 2, 4 or 8 modulo 2^16, and no flag, no memory byte and no other state changes. (43_stack.md
R236, 43_stack.md R237, 43_stack.md R238, 43_stack.md R239) -/
def Obligations.PopGroups : Prop :=
  (∀ n : RegNum, Pops [(0xF#4 ++ n ++ 0x0E#8 : Word)] (.popRn n) 1 n 2) ∧
  (∀ n : RegNum, isER n = true → Pops [(0xF#4 ++ n ++ 0x1E#8 : Word)] (.popERn n) 2 n 2) ∧
  (∀ n : RegNum, isXR n = true → Pops [(0xF#4 ++ n ++ 0x2E#8 : Word)] (.popXRn n) 4 n 4) ∧
  (∀ n : RegNum, isQR n = true → Pops [(0xF#4 ++ n ++ 0x3E#8 : Word)] (.popQRn n) 8 n 8)

/-- O29. From every state with memory in canonical form, for every legal register of each of the four sizes, PUSH and then
POP of it completes and gives back the whole state but for memory, in which only the pushed bytes may differ; POP of
another register of that size instead copies the value into it. (43_stack.md R241) -/
def Obligations.PushPopRoundTrip : Prop :=
  ∀ (s : State), Memory.wf s.mem = true →
    (∀ n : RegNum, ∃ t, execTwo (.pushRn n) (.popRn n) s = .next t ∧ t = { s with mem := t.mem } ∧
      ∀ a, ¬ holdsByteOf 0 (s.sp - 2) 1 a → Memory.read t.mem a = Memory.read s.mem a) ∧
    (∀ n : RegNum, isER n = true → ∃ t, execTwo (.pushERn n) (.popERn n) s = .next t ∧ t = { s with mem := t.mem } ∧
      ∀ a, ¬ holdsByteOf 0 (s.sp - 2) 2 a → Memory.read t.mem a = Memory.read s.mem a) ∧
    (∀ n : RegNum, isXR n = true → ∃ t, execTwo (.pushXRn n) (.popXRn n) s = .next t ∧ t = { s with mem := t.mem } ∧
      ∀ a, ¬ holdsByteOf 0 (s.sp - 4) 4 a → Memory.read t.mem a = Memory.read s.mem a) ∧
    (∀ n : RegNum, isQR n = true → ∃ t, execTwo (.pushQRn n) (.popQRn n) s = .next t ∧ t = { s with mem := t.mem } ∧
      ∀ a, ¬ holdsByteOf 0 (s.sp - 8) 8 a → Memory.read t.mem a = Memory.read s.mem a) ∧
    (∀ n m : RegNum, ∃ t, execTwo (.pushRn n) (.popRn m) s = .next t ∧ ByteWritten m (s.r n) s t) ∧
    (∀ n m : RegNum, isER n = true → isER m = true → ∃ t, execTwo (.pushERn n) (.popERn m) s = .next t ∧ GroupWritten 2 m (s.er n) s t) ∧
    (∀ n m : RegNum, isXR n = true → isXR m = true →
      ∃ t, execTwo (.pushXRn n) (.popXRn m) s = .next t ∧ GroupWritten 4 m (s.group 4 n) s t) ∧
    ∀ n m : RegNum, isQR n = true → isQR m = true →
      ∃ t, execTwo (.pushQRn n) (.popQRn m) s = .next t ∧ GroupWritten 8 m (s.group 8 n) s t

/-- O30. For every choice of LR, EPSW, ELR and EA, the empty list included: the word; from every state with memory in
canonical form it completes; the selected items, ELR with ECSR of the current level, then EPSW of that level, LR with
LCSR, EA, segment slots first, lie one below the other under the old SP, SP is 2 lower for each word, and every other
byte and everything else are as before. (43_stack.md R235) -/
def Obligations.PushListLayout : Prop :=
  ∀ l e p a : Bool, Does [(0xF#4 ++ BitVec.ofBool l ++ BitVec.ofBool e ++ BitVec.ofBool p ++ BitVec.ofBool a ++ 0xCE#8 : Word)]
    (.pushList l e p a) (fun s => Memory.wf s.mem = true) fun s t =>
      let items := pushedItems l e p a s
      t.sp = s.sp - BitVec.ofNat 16 (2 * items.length) ∧
      (∀ (j : Nat) (h : j < items.length), slotWord t.mem (s.sp - BitVec.ofNat 16 (2 * (j + 1))) = items[j]) ∧
      (∀ x, ¬ holdsByteOf 0 t.sp (2 * items.length) x → Memory.read t.mem x = Memory.read s.mem x) ∧
      Memory.wf t.mem = true ∧ t = { s with mem := t.mem, sp := t.sp }

/-- O31. For every choice of LR, PSW, PC and EA, the empty list included: the word; it always completes; EA takes the
first slot, LR and LCSR the next two, PSW the next, PC (bit 0 dropped) and CSR the next two, each only where selected,
8-bit registers from the low byte of their slot; SP rises by 2 for each slot; everything else, memory included, is as
before. (43_stack.md R240) -/
def Obligations.PopListOrder : Prop :=
  ∀ l e p a : Bool, Does [(0xF#4 ++ BitVec.ofBool l ++ BitVec.ofBool e ++ BitVec.ofBool p ++ BitVec.ofBool a ++ 0x8E#8 : Word)]
    (.popList l e p a) anyState fun s t =>
      let slot := fun j => slotWord s.mem (s.sp + BitVec.ofNat 16 (2 * j))
      let atLr := if a then 1 else 0
      let atPsw := atLr + if l then 2 else 0
      let atPc := atPsw + if e then 1 else 0
      t.ea = (if a then slot 0 else s.ea) ∧
      t.lr = (if l then slot atLr else s.lr) ∧ t.lcsr = (if l then (slot (atLr + 1)).extractLsb' 0 8 else s.lcsr) ∧
      t.psw = (if e then (slot atPsw).extractLsb' 0 8 else s.psw) ∧
      t.pc = (if p then slot atPc &&& 0xFFFE else s.pc) ∧ t.csr = (if p then (slot (atPc + 1)).extractLsb' 0 8 else s.csr) ∧
      t.sp = s.sp + BitVec.ofNat 16 (2 * (atPc + if p then 2 else 0)) ∧
      t = { (s.setLink t.lr t.lcsr).setPsw t.psw with ea := t.ea, pc := t.pc, csr := t.csr, sp := t.sp }

/-- O32. Each of the six forms on every legal register: its word; the cell named is that of the current level (LR and LCSR
at level 0); MOV EPSW,Rm and MOV Rn,EPSW do nothing at level 0; all 16 bits of ELR are stored; no flag changes and
every other cell of every bank and everything else are as before. (44_control_register.md R251, 44_control_register.md
R252, 44_control_register.md R253, 44_control_register.md R254, 44_control_register.md R255, 44_control_register.md
R258) -/
def Obligations.BankMoves : Prop :=
  (∀ m : RegNum, Does [(0xA0#8 ++ m ++ 0xF#4 : Word)] (.movECSRRm m) anyState fun s t =>
      (∀ l, t.ecsrOf l = if l = s.level then s.r m else s.ecsrOf l) ∧ t = { s with ecsr := t.ecsr }) ∧
  (∀ m : RegNum, Does [(0xA0#8 ++ m ++ 0xC#4 : Word)] (.movEPSWRm m) anyState fun s t =>
      (∀ l, t.epswOf l = if l = s.level ∧ l ≠ 0 then s.r m else s.epswOf l) ∧ t = { s with epsw := t.epsw }) ∧
  (∀ m : RegNum, isER m = true → Does [(0xA#4 ++ m ++ 0x0D#8 : Word)] (.movELRERm m) anyState fun s t =>
      (∀ l, t.elrOf l = if l = s.level then s.er m else s.elrOf l) ∧ t = { s with elr := t.elr }) ∧
  (∀ n : RegNum, isER n = true → Does [(0xA#4 ++ n ++ 0x05#8 : Word)] (.movERnELR n) anyState fun s t =>
      GroupWritten 2 n (s.elrOf s.level) s t ∧ OnlyRegs s t) ∧
  (∀ n : RegNum, Does [(0xA#4 ++ n ++ 0x04#8 : Word)] (.movRnEPSW n) anyState fun s t =>
      ByteWritten n (if s.level = 0 then s.r n else s.epswOf s.level) s t ∧ OnlyRegs s t) ∧
  ∀ n : RegNum, Does [(0xA#4 ++ n ++ 0x07#8 : Word)] (.movRnECSR n) anyState fun s t =>
      ByteWritten n (s.ecsrOf s.level) s t ∧ OnlyRegs s t

/-- O33. Each of the six forms on every legal register: its word; MOV PSW replaces all eight bits and nothing else, CS
included; MOV Rn,PSW and MOV ERn,SP copy without a flag; MOV SP takes all 16 bits; ADD SP adds a signed byte modulo
2^16 and changes no flag; everything else as before. (44_control_register.md R256, 44_control_register.md R257,
44_control_register.md R259, 44_control_register.md R260, 44_control_register.md R261, 44_control_register.md R262) -/
def Obligations.PswAndSpMoves : Prop :=
  (∀ m : RegNum, WritesPsw [(0xA0#8 ++ m ++ 0xB#4 : Word)] (.movPSWRm m) (fun s => s.r m)) ∧
  (∀ imm : Byte, WritesPsw [(0xE9#8 ++ imm : Word)] (.movPSWImm8 imm) (fun _ => imm)) ∧
  (∀ n : RegNum, Does [(0xA#4 ++ n ++ 0x03#8 : Word)] (.movRnPSW n) anyState fun s t => ByteWritten n s.psw s t ∧ OnlyRegs s t) ∧
  (∀ n : RegNum, isER n = true → Does [(0xA#4 ++ n ++ 0x1A#8 : Word)] (.movERnSP n) anyState fun s t =>
      GroupWritten 2 n s.sp s t ∧ OnlyRegs s t) ∧
  (∀ m : RegNum, isER m = true → LeadsTo [(0xA1#8 ++ m ++ 0xA#4 : Word)] (.movSPERm m) fun s => { s with sp := s.er m }) ∧
  ∀ imm : Byte, LeadsTo [(0xE1#8 ++ imm : Word)] (.addSPImm8 imm) fun s =>
      { s with sp := BitVec.ofInt 16 (s.sp.toNat + imm.toInt) }

/-- O34. The three LEA forms: their words, EA as the offset of the mode modulo 2^16, no flag, no memory access. The five
fixed words: MIE or C set, cleared or complemented, every other bit of PSW, CS and everything else as before; the
host's accessor reads the new MIE in the state after. (44_control_register.md R263, 44_control_register.md R264,
44_control_register.md R265, 44_control_register.md R266, 44_control_register.md R267, 44_control_register.md R268,
44_control_register.md R269, 44_control_register.md R270) -/
def Obligations.LeaAndSingleBits : Prop :=
  (∀ m : RegNum, isER m = true → LeadsTo [(0xF0#8 ++ m ++ 0xA#4 : Word)] (.leaERm m) fun s => { s with ea := s.er m }) ∧
  (∀ (m : RegNum) (d : Word), isER m = true → LeadsTo [(0xF0#8 ++ m ++ 0xB#4 : Word), d] (.leaDisp16ERm m d) fun s =>
      { s with ea := BitVec.ofNat 16 ((s.er m).toNat + d.toNat) }) ∧
  (∀ a : Word, LeadsTo [0xF00C, a] (.leaDadr a) fun s => { s with ea := a }) ∧
  WritesPsw [0xED08] .ei (fun s => pswEnable s.psw true) ∧ WritesPsw [0xEBF7] .di (fun s => pswEnable s.psw false) ∧
  WritesPsw [0xED80] .sc (fun s => pswCarry s.psw true) ∧ WritesPsw [0xEB7F] .rc (fun s => pswCarry s.psw false) ∧
  WritesPsw [0xFECF] .cplc (fun s => pswCarry s.psw (!s.c)) ∧
  ∀ s t : State, (exec .ei s = .next t → getMasterInterruptEnable t = true) ∧ (exec .di s = .next t → getMasterInterruptEnable t = false)

/-- O35. For every condition number and every PSW, the condition holds exactly as the table of the rule says in the column
of the 4-bit number C Z S OV, columns from 0000 at the left; so HC, MIE and ELEVEL do not matter. After a comparison
of a with b, as bytes or words (ByteCompare and PairArithmetic say that CMP leaves this PSW), GE LT GT LE hold as the
unsigned order of a and b says, GES LTS GTS LES as the signed order, NE and EQ as a differs from or equals b; NV and
OV report signed overflow, PS and NS the sign of the difference. (45_branch.md R281) -/
def Obligations.ConditionTable : Prop :=
  let table : List (BitVec 16) :=
    [0b1111111100000000, 0b0000000011111111, 0b1111000000000000, 0b0000111111111111, 0b1001100110011001, 0b0110011001100110,
     0b1001000010010000, 0b0110111101101111, 0b1111000011110000, 0b0000111100001111, 0b1010101010101010, 0b0101010101010101,
     0b1100110011001100, 0b0011001100110011, 0b1111111111111111, 0b1111111111111111]
  let means := fun (q : Byte) (u v : Nat) (x y : Int) =>
    (condHolds .ge q = true ↔ v ≤ u) ∧ (condHolds .lt q = true ↔ u < v) ∧ (condHolds .gt q = true ↔ v < u) ∧
    (condHolds .le q = true ↔ u ≤ v) ∧ (condHolds .ges q = true ↔ y ≤ x) ∧ (condHolds .lts q = true ↔ x < y) ∧
    (condHolds .gts q = true ↔ y < x) ∧ (condHolds .les q = true ↔ x ≤ y) ∧ (condHolds .ne q = true ↔ u ≠ v) ∧
    (condHolds .eq q = true ↔ u = v)
  (∀ (code : BitVec 4) (p : Byte),
    some (condHolds (Cond.ofCode code) p) = (table[code.toNat]?).map (fun row => row.getLsbD (15 - (p.extractLsb' 4 4).toNat))) ∧
  (∀ p a b : Byte, let q := pswDifference 4 p a b false
    means q a.toNat b.toNat a.toInt b.toInt ∧ (condHolds .ov q = true ↔ outOfRange 8 (a.toInt - b.toInt) = true) ∧
      condHolds .nv q = !condHolds .ov q ∧ condHolds .ns q = (a - b).msb ∧ condHolds .ps q = !condHolds .ns q) ∧
  ∀ (p : Byte) (a b : Word), let q := pswDifference 12 p a b false
    means q a.toNat b.toNat a.toInt b.toInt ∧ (condHolds .ov q = true ↔ outOfRange 16 (a.toInt - b.toInt) = true) ∧
      condHolds .nv q = !condHolds .ov q ∧ condHolds .ns q = (a - b).msb ∧ condHolds .ps q = !condHolds .ns q

/-- O36. For every condition number c and displacement d: the word; from every state with an even PC (the address of the
next instruction) it completes: where the condition holds, PC becomes PC + 2 d modulo 2^16 and nothing else changes;
where it does not, nothing changes. (45_branch.md R282) -/
def Obligations.ConditionalBranch : Prop :=
  ∀ (c : BitVec 4) (d : Byte), Does [(0xC#4 ++ c ++ d : Word)] (.bcond (Cond.ofCode c) d) (fun s => s.pc.getLsbD 0 = false)
    fun s t => t = if condHolds (Cond.ofCode c) s.psw then { s with pc := BitVec.ofInt 16 (s.pc.toNat + 2 * d.toInt) } else s

/-- O37. Each form, for every operand and at every level: its words; B and BL with an address set CSR to the 4-bit
segment, upper bits 0, and PC to the offset without bit 0; the register forms keep CSR; BL first saves PC and CSR in
LR and LCSR, and BL ERn uses the old ERn; RT takes CSR and PC from LCSR and LR, which keep their values. PSW, the
other banks and everything else are as before. (45_branch.md R283, 45_branch.md R284, 45_branch.md R285, 45_branch.md
R286, 45_branch.md R287) -/
def Obligations.JumpsAndCalls : Prop :=
  (∀ (g : BitVec 4) (a : Word), LeadsTo [(0xF#4 ++ g ++ 0x00#8 : Word), a] (.bCadr g a) fun s =>
      { s with csr := BitVec.ofNat 8 g.toNat, pc := a &&& 0xFFFE }) ∧
  (∀ (g : BitVec 4) (a : Word), Does [(0xF#4 ++ g ++ 0x01#8 : Word), a] (.blCadr g a) anyState fun s t =>
      t.lr = s.pc ∧ t.lcsr = s.csr ∧ t = { s.setLink t.lr t.lcsr with csr := BitVec.ofNat 8 g.toNat, pc := a &&& 0xFFFE }) ∧
  (∀ n : RegNum, isER n = true → LeadsTo [(0xF0#8 ++ n ++ 0x2#4 : Word)] (.bERn n) fun s => { s with pc := s.er n &&& 0xFFFE }) ∧
  (∀ n : RegNum, isER n = true → Does [(0xF0#8 ++ n ++ 0x3#4 : Word)] (.blERn n) anyState fun s t =>
      t.lr = s.pc ∧ t.lcsr = s.csr ∧ t = { s.setLink t.lr t.lcsr with pc := s.er n &&& 0xFFFE }) ∧
  LeadsTo [0xFE1F] .rt fun s => { s with csr := s.lcsr, pc := s.lr &&& 0xFFFE }

/-- O38. From every state with an even PC: BL and then RT, in either form of BL, completes with PC and CSR as after the
BL's words and everything but LR and LCSR as before; PUSH LR and then POP PC goes to LR in segment LCSR with SP as
before. (45_branch.md R288, 43_stack.md R241) -/
def Obligations.CallsReturn : Prop :=
  ∀ s : State, s.pc.getLsbD 0 = false →
    (∀ (g : BitVec 4) (a : Word), execTwo (.blCadr g a) .rt s = .next (s.setLink s.pc s.csr)) ∧
    (∀ n : RegNum, isER n = true → execTwo (.blERn n) .rt s = .next (s.setLink s.pc s.csr)) ∧
    (Memory.wf s.mem = true → ∃ t, execTwo (.pushList true false false false) (.popList false false true false) s = .next t ∧
      t.pc = s.lr &&& 0xFFFE ∧ t.csr = s.lcsr ∧ t.sp = s.sp)

/-- O39. For every level and index and from every state: PC and CSR go to ELR and ECSR of the level, above level 0 PSW
goes to EPSW of the level, every other cell of the banks but PSW keeps its value; ELEVEL becomes the level, level 1
clears MIE and no other level does, the five flags are kept; CSR becomes 0 and PC the vector word at byte 2 * index of
segment 0 without bit 0; nothing else changes. (60_exceptions.md R341, 60_exceptions.md R342, 60_exceptions.md R343) -/
def Obligations.TakeException : Prop :=
  ∀ (level : BitVec 2) (index : BitVec 7) (s : State), let t := takeException level index s
    (∀ l, t.elrOf l = if l = level then s.pc else s.elrOf l) ∧ (∀ l, t.ecsrOf l = if l = level then s.csr else s.ecsrOf l) ∧
    (∀ l, l ≠ 0 → t.epswOf l = if l = level then s.psw else s.epswOf l) ∧
    t.psw = packPsw s.c s.z s.sgn s.ov (if level = 1 then false else pswMIE s.psw) s.hc level ∧ t.csr = 0 ∧
    dataRead s.mem 0 2 (BitVec.ofNat 16 (2 * index.toNat)) = .ok (vectorEntry s.mem index) ∧
    t.pc = vectorEntry s.mem index &&& 0xFFFE ∧
    t = { s with elr := t.elr, ecsr := t.ecsr, epsw := t.epsw, csr := t.csr, pc := t.pc }

/-- O40. From every state, at every level: its word; CSR, PC without bit 0, and all of PSW come from the bank of the old
level, every cell of the banks but PSW and everything else are as before; at level 0 the outcome is that of RT.
(46_interrupt.md R300) -/
def Obligations.ReturnFromInterrupt : Prop :=
  (Does [0xFE0F] .rti anyState fun s t => t.csr = s.ecsrOf s.level ∧ t.pc = s.elrOf s.level &&& 0xFFFE ∧
      t.psw = s.epswOf s.level ∧ t = { s.setPsw t.psw with csr := t.csr, pc := t.pc }) ∧
  ∀ s : State, s.level = 0 → exec .rti s = exec .rt s

/-- O41. For levels 1 to 3 from any state with an even PC, and for level 0 where ELEVEL was 0: after Raise(level, index),
RTI completes with PC, CSR and PSW as before the raise, the general registers, SP, EA, DSR, CS and memory untouched,
and only the bank of the level overwritten. (60_exceptions.md R353) -/
def Obligations.RaiseThenRti : Prop :=
  ∀ (level : BitVec 2) (index : BitVec 7) (s : State), s.pc.getLsbD 0 = false → (level = 0 → s.level = 0) →
    ∃ t, exec .rti (takeException level index s) = .next t ∧ t.pc = s.pc ∧ t.csr = s.csr ∧ t.psw = s.psw ∧
      (∀ l, l ≠ level → t.elrOf l = s.elrOf l ∧ t.ecsrOf l = s.ecsrOf l ∧ t.epswOf l = s.epswOf l) ∧
      t = { s with elr := t.elr, ecsr := t.ecsr, epsw := t.epsw }

/-- O42. The words of SWI and BRK; each completes from every state, leaves in the model's field signal (log 5) the call it
makes of the platform, with the raw 6-bit index for SWI, and changes nothing else; the platform answers after the
step. (46_interrupt.md R301, 46_interrupt.md R302, 60_exceptions.md R348) -/
def Obligations.SoftwareSignals : Prop :=
  (∀ k : BitVec 6, LeadsTo [(0xE5#8 ++ 0b00#2 ++ k : Word)] (.swi k) fun s => { s with signal := some (.swi k) }) ∧
  LeadsTo [0xFFFF] .brk fun s => { s with signal := some .brk }

/-- O43. After a step that leaves a signal (the model's field, which the answer clears: log 5), the reference platform
raises (1, 64 + n) for SWI n, and for BRK raises (2, 2) at level 0 or 1 and resets at level 2 or 3; a step without a
signal is left alone. It takes maskable request k of 5 to 63 exactly when MIE is 1 and the level at most 1, as
Raise(1, k), the non-maskable one at level 2 or below as Raise(2, 4), the emulator's always as Raise(3, 3). A platform
that drops the signals leaves the state as it is but for the cleared signal. Between two steps the reference platform
takes at most one pending request (R349 (c)): the emulator's first, else the non-maskable one at level 2 or below,
else the enabled maskable one with the lowest index of 5 or more; where none of these is pending and enabled (nothing
pending; MIE 0 or a level above 1; only maskable indices below 5; a non-maskable request at level 3), it leaves the
state as it is. (60_exceptions.md R362, 60_exceptions.md R349, 60_exceptions.md R348) -/
def Obligations.ReferencePlatform : Prop :=
  (∀ s : State, s.signal = none → Platform.reference.deliver s = s) ∧
  (∀ (s : State) (n : BitVec 6), s.signal = some (.swi n) →
    Platform.reference.deliver s = (takeException 1 (BitVec.ofNat 7 (64 + n.toNat)) s).setSignal none) ∧
  (∀ s : State, s.signal = some .brk →
    Platform.reference.deliver s = if s.level.toNat ≤ 1 then (takeException 2 2 s).setSignal none else s.hostReset) ∧
  (∀ (s : State) (k : BitVec 6) (call : HostCall), Platform.reference.take (.maskable k) s = some call ↔
    5 ≤ k.toNat ∧ pswMIE s.psw = true ∧ s.level.toNat ≤ 1 ∧ call = .raise 1 (BitVec.ofNat 7 k.toNat)) ∧
  (∀ (s : State) (call : HostCall), Platform.reference.take .nonMaskable s = some call ↔ s.level.toNat ≤ 2 ∧ call = .raise 2 4) ∧
  (∀ (s : State) (call : HostCall), Platform.reference.take .emulator s = some call ↔ call = .raise 3 3) ∧
  (∀ s : State, Platform.silent.deliver s = s.setSignal none) ∧
  ∀ (pending : List Request) (s : State),
    (.emulator ∈ pending → Platform.reference.interrupt pending s = takeException 3 3 s) ∧
    (.emulator ∉ pending → .nonMaskable ∈ pending → s.level.toNat ≤ 2 →
      Platform.reference.interrupt pending s = takeException 2 4 s) ∧
    (∀ k : BitVec 6, .emulator ∉ pending → .nonMaskable ∉ pending → pswMIE s.psw = true → s.level.toNat ≤ 1 →
      .maskable k ∈ pending → 5 ≤ k.toNat → (∀ j : BitVec 6, .maskable j ∈ pending → 5 ≤ j.toNat → k.toNat ≤ j.toNat) →
      Platform.reference.interrupt pending s = takeException 1 (BitVec.ofNat 7 k.toNat) s) ∧
    (.emulator ∉ pending → (.nonMaskable ∈ pending → 2 < s.level.toNat) →
      (∀ k : BitVec 6, .maskable k ∈ pending → 5 ≤ k.toNat → pswMIE s.psw = false ∨ 1 < s.level.toNat) →
      Platform.reference.interrupt pending s = s)

/-- O44. Raise(level, index) with level 0 to 3 and index 0 to 127 is performed whatever the current level; any other pair
is refused. GetExceptionLevel reads PSW bits 1:0, GetMasterInterruptEnable bit 3. (60_exceptions.md R344,
60_exceptions.md R355) -/
def Obligations.HostCalls : Prop :=
  (∀ (level index : Nat) (s : State), level ≤ 3 → index ≤ 127 →
    hostRaise level index s = .next (takeException (BitVec.ofNat 2 level) (BitVec.ofNat 7 index) s)) ∧
  (∀ (level index : Nat) (s : State), 3 < level ∨ 127 < index → hostRaise level index s = .refused (.hostArguments level index)) ∧
  ∀ s : State, getExceptionLevel s = s.psw.toNat % 4 ∧ getMasterInterruptEnable s = s.psw.getLsbD 3

/-- O45. For every even n and every m, m inside the pair included: MUL writes R[n] times R[m], unsigned, to ER[n] and Z
alone. DIV with a non-zero divisor writes the quotient to ER[n], and the remainder to R[m] unless that is in the pair,
where the quotient wins; it clears C and writes Z. With a zero divisor it is exactly Raise(DIV0_LEVEL, DIV0_INDEX),
whatever MIE and the level, and writes nothing else. Everything else as before. (47_misc.md R310, 47_misc.md R311,
60_exceptions.md R346) -/
def Obligations.MultiplyAndDivide : Prop :=
  ∀ n m : RegNum, isER n = true →
    WritesPair [(0xF#4 ++ n ++ m ++ 0x4#4 : Word)] (.mulERnRm n m) n
      (fun s => BitVec.ofNat 16 ((s.r n).toNat * (s.r m).toNat))
      (fun s => pswZero s.psw (decide ((s.r n).toNat * (s.r m).toNat = 0))) ∧
    Does [(0xF#4 ++ n ++ m ++ 0x9#4 : Word)] (.divERnRm n m) anyState fun s t =>
      if s.r m = 0 then t = takeException Config.div0Level.toBits Config.div0Index s
      else
        let q := (s.er n).toNat / (s.r m).toNat
        let r := (s.er n).toNat % (s.r m).toNat
        t.er n = BitVec.ofNat 16 q ∧ (m ≠ n → m ≠ n + 1 → t.r m = BitVec.ofNat 8 r) ∧
        (∀ x, x ≠ n → x ≠ n + 1 → x ≠ m → t.r x = s.r x) ∧
        t.psw = packPsw false (decide (q = 0)) s.sgn s.ov (pswMIE s.psw) s.hc s.level ∧ OnlyRegsPsw s t

/-- O46. For every register: the word; the adjustment is 0x06 where HC is set or the low digit exceeds 9, plus 0x60 where
C is set or the byte exceeds 0x99; the register is adjusted modulo 256; C is set by a high adjustment and never
cleared, HC is the carry or borrow of the low digits, Z and S describe the result; OV, MIE, ELEVEL and everything else
as before. (47_misc.md R313, 47_misc.md R314) -/
def Obligations.DecimalAdjust : Prop :=
  ∀ n : RegNum,
    let adj := fun s : State => (if s.hc = true ∨ 9 < (s.r n).toNat % 16 then 6 else 0) + (if s.c = true ∨ 0x99 < (s.r n).toNat then 0x60 else 0)
    let psw := fun (s : State) (v : Nat) (hc : Bool) =>
      packPsw (s.c || decide (0x60 ≤ adj s)) (decide (v = 0)) (decide (128 ≤ v)) s.ov (pswMIE s.psw) hc s.level
    let up := fun s : State => ((s.r n).toNat + adj s) % 256
    let down := fun s : State => ((s.r n).toNat + 256 - adj s) % 256
    WritesByte [(0x8#4 ++ n ++ 0x1F#8 : Word)] (.daaRn n) n (fun s => BitVec.ofNat 8 (up s))
      (fun s => psw s (up s) (decide (15 < (s.r n).toNat % 16 + adj s % 16))) ∧
    WritesByte [(0x8#4 ++ n ++ 0x3F#8 : Word)] (.dasRn n) n (fun s => BitVec.ofNat 8 (down s))
      (fun s => psw s (down s) (decide ((s.r n).toNat % 16 < adj s % 16)))

/-- O47. With two-digit decimal numbers x in Rn and y in Rm: ADD or ADDC and then DAA leaves the decimal digits of the sum
modulo 100 in Rn and its carry in C; SUB or SUBC and then DAS leaves those of the difference modulo 100 and its borrow
in C. (47_misc.md R313, 47_misc.md R314, 40_arithmetic.md R139, 40_arithmetic.md R157) -/
def Obligations.DecimalArithmetic : Prop :=
  ∀ (n m : RegNum) (x y : Nat) (s : State), x < 100 → y < 100 → s.r n = bcd x → s.r m = bcd y →
    (∃ t, execTwo (.addRnRm n m) (.daaRn n) s = .next t ∧ t.r n = bcd ((x + y) % 100) ∧ t.c = decide (100 ≤ x + y)) ∧
    (∃ t, execTwo (.addcRnRm n m) (.daaRn n) s = .next t ∧
      t.r n = bcd ((x + y + s.c.toNat) % 100) ∧ t.c = decide (100 ≤ x + y + s.c.toNat)) ∧
    (∃ t, execTwo (.subRnRm n m) (.dasRn n) s = .next t ∧ t.r n = bcd ((x + 100 - y) % 100) ∧ t.c = decide (x < y)) ∧
    ∃ t, execTwo (.subcRnRm n m) (.dasRn n) s = .next t ∧
      t.r n = bcd ((x + 100 - y - s.c.toNat) % 100) ∧ t.c = decide (x < y + s.c.toNat)

/-- O48. Each of the eight words writes to its pair the signed value of its low register as 16 bits and Z and S of the
result, and changes nothing else; a word of that shape with two different register fields matches no row. (47_misc.md
R315) -/
def Obligations.ExtendByte : Prop :=
  WritesPair [0x810F] .extbwER0 0 (fun s => BitVec.ofInt 16 (s.r 0).toInt) (fun s => pswOfValue s.psw (BitVec.ofInt 16 (s.r 0).toInt)) ∧
  WritesPair [0x832F] .extbwER2 2 (fun s => BitVec.ofInt 16 (s.r 2).toInt) (fun s => pswOfValue s.psw (BitVec.ofInt 16 (s.r 2).toInt)) ∧
  WritesPair [0x854F] .extbwER4 4 (fun s => BitVec.ofInt 16 (s.r 4).toInt) (fun s => pswOfValue s.psw (BitVec.ofInt 16 (s.r 4).toInt)) ∧
  WritesPair [0x876F] .extbwER6 6 (fun s => BitVec.ofInt 16 (s.r 6).toInt) (fun s => pswOfValue s.psw (BitVec.ofInt 16 (s.r 6).toInt)) ∧
  WritesPair [0x898F] .extbwER8 8 (fun s => BitVec.ofInt 16 (s.r 8).toInt) (fun s => pswOfValue s.psw (BitVec.ofInt 16 (s.r 8).toInt)) ∧
  WritesPair [0x8BAF] .extbwER10 10 (fun s => BitVec.ofInt 16 (s.r 10).toInt) (fun s => pswOfValue s.psw (BitVec.ofInt 16 (s.r 10).toInt)) ∧
  WritesPair [0x8DCF] .extbwER12 12 (fun s => BitVec.ofInt 16 (s.r 12).toInt) (fun s => pswOfValue s.psw (BitVec.ofInt 16 (s.r 12).toInt)) ∧
  WritesPair [0x8FEF] .extbwER14 14 (fun s => BitVec.ofInt 16 (s.r 14).toInt) (fun s => pswOfValue s.psw (BitVec.ofInt 16 (s.r 14).toInt)) ∧
  ∀ a b : BitVec 3, a ≠ b → decodeFirst (0x8#4 ++ a ++ 1#1 ++ b ++ 0#1 ++ 0xF#4) = .illegal

/-- O49. In a segment that answers, from memory in canonical form, each completes: the byte at EA or at the direct offset
of the segment in force is read, changed and written back (TB only reads it), every other byte is as before; INC and
DEC write Z, S, OV and HC of the addition or subtraction and keep C; the bit instructions write Z as the complement of
the old bit; EA and everything else are as before. (47_misc.md R316, 47_misc.md R317, 47_misc.md R319, 47_misc.md
R321, 47_misc.md R323) -/
def Obligations.MemoryBytesChanged : Prop :=
  let ready := fun s : State => segmentAnswers s.seg ∧ Memory.wf s.mem = true
  let change := fun (ws : List Word) (i : Instr) (off : State → Word) (f : Byte → Byte) (psw : State → Byte → Byte) =>
    Does ws i ready fun s t => ∃ p, placeOf s.seg (off s) 0 = some p ∧
      (∀ a, Memory.read t.mem a = if a = p then f (Memory.read s.mem p) else Memory.read s.mem a) ∧ Memory.wf t.mem = true ∧
      t.psw = psw s (Memory.read s.mem p) ∧ t = { s.setPsw t.psw with mem := t.mem }
  change [0xFE2F] .incEA State.ea (fun x => x + 1) (fun s x => pswCarry (pswSum 4 s.psw x 1#8 false) s.c) ∧
  change [0xFE3F] .decEA State.ea (fun x => x - 1) (fun s x => pswCarry (pswDifference 4 s.psw x 1#8 false) s.c) ∧
  (∀ (b : BitVec 3) (a : Word), change [(0xA0#8 ++ 1#1 ++ b ++ 0x0#4 : Word), a] (.sbDbitadr b a) (fun _ => a)
    (fun x => x ||| (1#8 <<< b.toNat)) (fun s x => pswZero s.psw (!x.getLsbD b.toNat))) ∧
  (∀ (b : BitVec 3) (a : Word), change [(0xA0#8 ++ 1#1 ++ b ++ 0x2#4 : Word), a] (.rbDbitadr b a) (fun _ => a)
    (fun x => x &&& ~~~(1#8 <<< b.toNat)) (fun s x => pswZero s.psw (!x.getLsbD b.toNat))) ∧
  ∀ (b : BitVec 3) (a : Word), Does [(0xA0#8 ++ 1#1 ++ b ++ 0x1#4 : Word), a] (.tbDbitadr b a) (fun s => segmentAnswers s.seg) fun s t =>
    ∃ p, placeOf s.seg a 0 = some p ∧ t.psw = pswZero s.psw (!(Memory.read s.mem p).getLsbD b.toNat) ∧ OnlyPsw s t

/-- O50. For every register and bit: the words; SB sets and RB clears exactly that bit, TB changes no register, and all
three write Z as the complement of the old bit and no other flag. NOP changes nothing. The prefixes write DSR
(immediate or register form) and the segment in force, set to DSR, and change nothing else. (47_misc.md R318,
47_misc.md R320, 47_misc.md R322, 47_misc.md R324, 47_misc.md R330, 47_misc.md R331, 47_misc.md R332) -/
def Obligations.RegisterBitsNopPrefixes : Prop :=
  (∀ (n : RegNum) (b : BitVec 3),
    (Does [(0xA#4 ++ n ++ 0#1 ++ b ++ 0x0#4 : Word)] (.sbRn n b) anyState fun s t =>
      (∀ (x : RegNum) (k : Nat), k < 8 → (t.r x).getLsbD k = if x = n ∧ k = b.toNat then true else (s.r x).getLsbD k) ∧
      t.psw = pswZero s.psw (!(s.r n).getLsbD b.toNat) ∧ OnlyRegsPsw s t) ∧
    (Does [(0xA#4 ++ n ++ 0#1 ++ b ++ 0x2#4 : Word)] (.rbRn n b) anyState fun s t =>
      (∀ (x : RegNum) (k : Nat), k < 8 → (t.r x).getLsbD k = if x = n ∧ k = b.toNat then false else (s.r x).getLsbD k) ∧
      t.psw = pswZero s.psw (!(s.r n).getLsbD b.toNat) ∧ OnlyRegsPsw s t) ∧
    WritesPsw [(0xA#4 ++ n ++ 0#1 ++ b ++ 0x1#4 : Word)] (.tbRn n b) (fun s => pswZero s.psw (!(s.r n).getLsbD b.toNat))) ∧
  LeadsTo [0xFE8F] .nop (fun s => s) ∧
  (∀ imm : Byte, LeadsTo [(0xE3#8 ++ imm : Word)] (.dsrImm8 imm) fun s => { s with dsr := imm, seg := imm }) ∧
  (∀ d : RegNum, LeadsTo [(0x90#8 ++ d ++ 0xF#4 : Word)] (.dsrRd d) fun s => { s with dsr := s.r d, seg := s.r d }) ∧
  LeadsTo [0xFE9F] .dsrDSR fun s => { s with seg := s.dsr }

/-- O51. From every state: SP and PC (bit 0 dropped) become the little-endian words at bytes 0 and 2 of segment 0, DSR,
CSR, CS and PSW become 0 and the core runs; no bank cell but PSW and no memory byte is written. That the bank cells
but PSW keep what they held after Reset() is R381's "No bank is written" and R50's sentence on a warm reset, against
U1's "not assumed stable across resets": the model's choice (log 13). (70_reset_and_hazards.md R381, 10_state.md R50) -/
def Obligations.ResetSequence : Prop :=
  ∀ s : State, let t := s.hostReset
    dataRead s.mem 0 2 0 = .ok t.sp ∧ (∃ w, dataRead s.mem 0 2 2 = .ok w ∧ t.pc = w &&& 0xFFFE) ∧
    t.dsr = 0 ∧ t.psw = 0 ∧ t.csr = 0 ∧ t.cs = false ∧ t.stopped = false ∧ t.elr = s.elr ∧ t.ecsr = s.ecsr ∧
    (∀ l, l ≠ 0 → t.epswOf l = s.epswOf l) ∧ t.mem = s.mem

/-- O52. The reset state has its memory in canonical form and inside the key space, an even PC, no segment in force, and
runs; PSW, CSR, DSR and CS are 0, SP and PC (bit 0 dropped) are the little-endian words at bytes 0 and 2 of segment 0
(R50). The memory it reads them from, with nothing listed, is the model's (log 2, log 9), as is the field seg (log
10). (10_state.md R26, 10_state.md R37, 10_state.md R50, 70_reset_and_hazards.md R381) -/
def Obligations.SoundAtReset : Prop :=
  Sound State.reset ∧ State.reset.psw = 0 ∧ State.reset.csr = 0 ∧ State.reset.dsr = 0 ∧ State.reset.cs = false ∧
  dataRead State.reset.mem 0 2 0 = .ok State.reset.sp ∧
  ∃ w, dataRead State.reset.mem 0 2 2 = .ok w ∧ State.reset.pc = w &&& 0xFFFE

/-- O53. From every sound state, reachable or not: if the step answers a next state, that is sound again (canonical memory
inside the key space, even PC, no segment in force, running), and so is the state after the answer of any platform,
whatever host calls it makes. (10_state.md R26, 10_state.md R37, 20_memory.md R61, 60_exceptions.md R348) -/
def Obligations.StepKeepsSound : Prop :=
  (∀ s t : State, Sound s → step s = .next t → Sound t) ∧
  ∀ (p : Platform) (s t : State), Sound s → systemStep p s = .next t → Sound t

/-- O54. From reset, with any memory in canonical form placed by the host at any time between steps, through any steps
that answer a next state and any calls of Raise and Reset, the state is sound. (00_scope.md R13,
70_reset_and_hazards.md R383) -/
def Obligations.ReachableSound : Prop :=
  ∀ s : State, Reachable s → Sound s

/-- O55. For every instruction, with any operands, from every state whose segment in force answers, exec gives a next
state, whatever the level, MIE and the alignment; an instruction that accesses no data through that segment completes
in any segment; and exec never faults. (60_exceptions.md R340, 60_exceptions.md R354, 45_branch.md R280, 20_memory.md
R72) -/
def Obligations.EveryInstructionCompletes : Prop :=
  ∀ (i : Instr) (s : State), (segmentAnswers s.seg → ∃ t, exec i s = .next t) ∧
    (dataOffset s i = none → ∃ t, exec i s = .next t) ∧ ∀ f, exec i s ≠ .fault f

/-- O56. For every instruction and state, if exec answers a next state then every bit of PSW outside the instruction's row
of the table of R32 keeps its value: no write for stores, stack, jumps and moves to registers, C alone for shifts with
a non-zero count, and so on; DIV by zero may change what Raise changes. (10_state.md R32, 10_state.md R34) -/
def Obligations.PswWriters : Prop :=
  ∀ (i : Instr) (s t : State), exec i s = .next t → ∀ k < 8, (touches s i).psw.getLsbD k = false → t.psw.getLsbD k = s.psw.getLsbD k

/-- O57. For every instruction and state, if exec answers a next state: PC, CSR, SP, EA, DSR, CS and the bank cells other
than PSW each keep their value unless the instruction is one of its writers; only the prefixes change the segment in
force, only SWI and BRK leave a signal (the model's fields), and none stops the core. (10_state.md R28, 10_state.md
R36, 10_state.md R39, 10_state.md R40, 10_state.md R41, 10_state.md R45) -/
def Obligations.SpecialRegisterWriters : Prop :=
  ∀ (i : Instr) (s t : State), exec i s = .next t →
    ((touches s i).pc = false → t.pc = s.pc) ∧ ((touches s i).csr = false → t.csr = s.csr) ∧ ((touches s i).sp = false → t.sp = s.sp) ∧
    ((touches s i).ea = false → t.ea = s.ea) ∧ ((touches s i).dsr = false → t.dsr = s.dsr) ∧ ((touches s i).cs = false → t.cs = s.cs) ∧
    ((touches s i).bank = false → t.elr = s.elr ∧ t.ecsr = s.ecsr ∧ ∀ l, l ≠ 0 → t.epswOf l = s.epswOf l) ∧
    ((touches s i).seg = false → t.seg = s.seg) ∧ ((touches s i).signal = false → t.signal = s.signal) ∧ t.stopped = s.stopped

/-- O58. For every instruction and state, if exec answers a next state: every general register outside the instruction's
destination groups keeps its value; if it stores, every byte of memory outside the stored bytes, computed from the
state before, reads as before; if it does not, memory is the same. (10_state.md R21, 20_memory.md R68, 20_memory.md
R70) -/
def Obligations.RegisterAndMemoryWriters : Prop :=
  ∀ (i : Instr) (s t : State), exec i s = .next t →
    (∀ x, (∀ g ∈ (touches s i).regs, ¬ inGroup g.1 g.2 x) → t.r x = s.r x) ∧
    (∀ seg off k, storedBytes s i = some (seg, off, k) → ∀ a, ¬ holdsByteOf seg off k a → Memory.read t.mem a = Memory.read s.mem a) ∧
    (storedBytes s i = none → t.mem = s.mem)

/-- O59. For every instruction and state and every level l that is neither 0 nor the current level: replacing the three
cells of bank l before the instruction gives the same outcome as replacing them after it, so they are neither read nor
written. DIV by zero, whose Raise writes the bank of DIV0_LEVEL, is the one exception. (10_state.md R45, 10_state.md
R44) -/
def Obligations.BankIsolation : Prop :=
  ∀ (i : Instr) (s : State) (l : BitVec 2) (elr : Word) (ecsr epsw : Byte), l ≠ 0 → l ≠ s.level → (touches s i).raises = false →
    exec i (withBank s l elr ecsr epsw) = onNext (fun t => withBank t l elr ecsr epsw) (exec i s)

/-- O60. For every instruction that makes no data access through the segment in force and is no prefix, PUSH, POP, LEA and
branches among them, and every state: replacing the segment before the instruction gives the same outcome as replacing
it after. (20_memory.md R64, 30_encoding.md R123, 43_stack.md R230) -/
def Obligations.SegmentOnlyForData : Prop :=
  ∀ (i : Instr) (s : State) (g : Byte), dataOffset s i = none → (touches s i).seg = false →
    exec i (s.setSeg g) = onNext (fun t => t.setSeg g) (exec i s)
end

