-- ==== Sys2Proof/Laws/Memory.lean ====
section
/-! SUPPORT. The laws of the memory: a write is read back and leaves every other place alone, the canonical form is kept
and is unique, and which places an access names. -/

namespace Sys2Proof.Machine

/-! ## Cells -/

theorem Memory.wf_cons {k : Nat} {b : Byte} {rest : Memory} :
    Memory.wf ((k, b) :: rest) = true ↔ b ≠ Memory.unlisted ∧ (∀ c ∈ rest, k < c.1) ∧ Memory.wf rest = true := by
  simp [Memory.wf, and_assoc]

/-- A place below every listed cell reads as unlisted. -/
theorem Memory.read_below : ∀ (m : Memory) (a : Nat), (∀ c ∈ m, a < c.1) → Memory.read m a = Memory.unlisted
  | [], _, _ => rfl
  | (k, b) :: rest, a, h => by
    have h1 : k ≠ a := by have := h (k, b) (by simp); simp at this; omega
    simp only [Memory.read, if_neg h1]
    exact Memory.read_below rest a fun c hc => h c (by simp [hc])

theorem Memory.read_put {a : Nat} {b : Byte} {above : Memory} (h : ∀ c ∈ above, a < c.1) (x : Nat) :
    Memory.read (Memory.put a b above) x = if a = x then b else Memory.read above x := by
  unfold Memory.put
  split
  · rename_i hb
    split
    · rename_i hx; subst hx; rw [hb, Memory.read_below above a h]
    · rfl
  · rfl

theorem Memory.mem_put {a : Nat} {b : Byte} {above : Memory} {c : Host.Cell} (h : c ∈ Memory.put a b above) :
    c = (a, b) ∨ c ∈ above := by
  unfold Memory.put at h
  split at h
  · exact .inr h
  · simpa using h

theorem Memory.wf_put {a : Nat} {b : Byte} {above : Memory} (h : ∀ c ∈ above, a < c.1) (hw : Memory.wf above = true) :
    Memory.wf (Memory.put a b above) = true := by
  unfold Memory.put
  split
  · exact hw
  · rename_i hb; exact Memory.wf_cons.2 ⟨hb, h, hw⟩

theorem Memory.mem_write : ∀ {m : Memory} {a : Nat} {b : Byte} {c : Host.Cell}, c ∈ Memory.write m a b → c = (a, b) ∨ c ∈ m
  | [], _, _, _, h => Memory.mem_put h
  | (k, x) :: rest, a, b, c, h => by
    simp only [Memory.write] at h
    split at h
    · exact Memory.mem_put h
    · split at h
      · rcases Memory.mem_put h with h | h <;> simp [h]
      · rcases List.mem_cons.1 h with h | h
        · simp [h]
        · rcases Memory.mem_write h with h | h <;> simp [h]

/-- A write keeps the canonical form. -/
theorem Memory.wf_write : ∀ {m : Memory} {a : Nat} {b : Byte}, Memory.wf m = true → Memory.wf (Memory.write m a b) = true
  | [], _, _, _ => Memory.wf_put (by simp) rfl
  | (k, x) :: rest, a, b, h => by
    obtain ⟨hx, hk, hr⟩ := Memory.wf_cons.1 h
    simp only [Memory.write]
    split
    · rename_i ha
      refine Memory.wf_put (fun c hc => ?_) h
      rcases List.mem_cons.1 hc with rfl | hc
      · exact ha
      · have := hk c hc; omega
    · split
      · rename_i ha; subst ha; exact Memory.wf_put hk hr
      · refine Memory.wf_cons.2 ⟨hx, fun c hc => ?_, Memory.wf_write hr⟩
        rcases Memory.mem_write hc with rfl | hc
        · simp; omega
        · exact hk c hc

/-- A write is read back, and leaves every other place alone. -/
theorem Memory.read_write : ∀ {m : Memory}, Memory.wf m = true → ∀ (a : Nat) (b : Byte) (x : Nat),
    Memory.read (Memory.write m a b) x = if a = x then b else Memory.read m x
  | [], _, a, b, x => Memory.read_put (by simp) x
  | (k, y) :: rest, h, a, b, x => by
    obtain ⟨hx, hk, hr⟩ := Memory.wf_cons.1 h
    simp only [Memory.write]
    split
    · rename_i ha
      refine Memory.read_put (fun c hc => ?_) x
      rcases List.mem_cons.1 hc with rfl | hc
      · exact ha
      · have := hk c hc; omega
    · split
      · rename_i ha
        subst ha
        rw [Memory.read_put hk]
        simp only [Memory.read]
        split <;> rfl
      · rename_i ha
        simp only [Memory.read, Memory.read_write hr a b x]
        split
        · rename_i hkx
          have : a ≠ x := by omega
          simp [this]
        · rfl

theorem Memory.read_put_ne {a : Nat} {b : Byte} {above : Memory} {x : Nat} (h : a ≠ x) :
    Memory.read (Memory.put a b above) x = Memory.read above x := by
  unfold Memory.put
  split
  · rfl
  · simp only [Memory.read, if_neg h]

/-- A write leaves every other place alone, whatever the form of the memory. -/
theorem Memory.read_write_ne : ∀ (m : Memory) {a : Nat} {b : Byte} {x : Nat}, a ≠ x →
    Memory.read (Memory.write m a b) x = Memory.read m x
  | [], _, _, _, h => Memory.read_put_ne h
  | (k, y) :: rest, a, b, x, h => by
    simp only [Memory.write]
    split
    · exact Memory.read_put_ne h
    · split
      · rename_i ha
        subst ha
        rw [Memory.read_put_ne h]
        simp only [Memory.read, if_neg h]
      · simp only [Memory.read, Memory.read_write_ne rest h]

/-- A write inside the key space keeps every cell inside it. -/
theorem Memory.inSpace_write {m : Memory} {a : Nat} {b : Byte} (h : Memory.inSpace m = true) (ha : a < Memory.size) :
    Memory.inSpace (Memory.write m a b) = true := by
  simp only [Memory.inSpace, List.all_eq_true, decide_eq_true_eq] at h ⊢
  intro c hc
  rcases Memory.mem_write hc with rfl | hc
  · exact ha
  · exact h c hc

/-- Two memories in canonical form that read the same everywhere are the same. -/
theorem Memory.ext_read : ∀ {m m' : Memory}, Memory.wf m = true → Memory.wf m' = true →
    (∀ a, Memory.read m a = Memory.read m' a) → m = m'
  | [], [], _, _, _ => rfl
  | [], (k, b) :: rest, _, h', h => by
    have := h k
    simp only [Memory.read, if_true] at this
    exact absurd this.symm (Memory.wf_cons.1 h').1
  | (k, b) :: rest, [], h', _, h => by
    have := h k
    simp only [Memory.read, if_true] at this
    exact absurd this (Memory.wf_cons.1 h').1
  | (k, b) :: rest, (k', b') :: rest', hw, hw', h => by
    obtain ⟨hb, hk, hr⟩ := Memory.wf_cons.1 hw
    obtain ⟨hb', hk', hr'⟩ := Memory.wf_cons.1 hw'
    have e : k = k' := by
      rcases Nat.lt_trichotomy k k' with hlt | heq | hlt
      · have := h k
        rw [Memory.read_below ((k', b') :: rest') k] at this
        · simp [Memory.read] at this; exact absurd this hb
        · intro c hc
          rcases List.mem_cons.1 hc with rfl | hc
          · exact hlt
          · have := hk' c hc; omega
      · exact heq
      · have := h k'
        rw [Memory.read_below ((k, b) :: rest) k'] at this
        · simp [Memory.read] at this; exact absurd this.symm hb'
        · intro c hc
          rcases List.mem_cons.1 hc with rfl | hc
          · exact hlt
          · have := hk c hc; omega
    subst e
    have e2 : b = b' := by simpa [Memory.read] using h k
    subst e2
    refine congrArg _ (Memory.ext_read hr hr' fun a => ?_)
    by_cases ha : k = a
    · subst ha; rw [Memory.read_below rest k hk, Memory.read_below rest' k hk']
    · simpa [Memory.read, ha] using h a

/-! ## Places -/

/-- Every place an address names lies in the key space. -/
theorem physical_lt_size {a : Address} {k : Nat} (h : physical a = some k) : k < Memory.size := by
  unfold physical at h
  unfold Memory.size
  have := a.isLt
  split at h
  · simp at h; split <;> omega
  · generalize Config.memHigh = x at h ⊢
    cases x <;> simp at h ⊢ <;> omega

/-- Addresses below 2^20 are their own place (20_memory.md R61). -/
theorem physical_low {a : Address} (h : a.toNat < 0x100000) : physical a = some a.toNat := by
  simp [physical, h]

theorem address_toNat (seg : Byte) (off : Word) : (address seg off).toNat = seg.toNat * 0x10000 + off.toNat := by
  have := off.isLt
  simp only [address, BitVec.toNat_append, Nat.shiftLeft_eq]
  rw [Nat.mul_comm, ← Nat.two_pow_add_eq_or_of_lt this]

/-- An access to a segment that answers has a place. -/
theorem physical_of_answers {seg : Byte} (h : segmentAnswers seg) (off : Word) : ∃ k, physical (address seg off) = some k := by
  have := off.isLt
  unfold physical
  rw [address_toNat]
  rcases h with h | h
  · exact ⟨_, if_pos (by omega)⟩
  · split
    · exact ⟨_, rfl⟩
    · generalize Config.memHigh = x at h ⊢
      cases x <;> simp_all

/-- Only a segment that does not answer has an address without a place. -/
theorem answers_of_physical {seg : Byte} {off : Word} {k : Nat} (h : physical (address seg off) = some k) :
    segmentAnswers seg := by
  unfold physical at h
  rw [address_toNat] at h
  have := off.isLt
  split at h
  · exact .inl (by omega)
  · refine .inr fun e => ?_
    rw [e] at h
    cases h

/-- Within a segment the place determines the offset. -/
theorem physical_offset {seg : Byte} {off : Word} {k : Nat} (h : physical (address seg off) = some k) :
    k % 0x10000 = off.toNat := by
  unfold physical at h
  rw [address_toNat] at h
  have := off.isLt
  split at h
  · simp at h; omega
  · split at h <;> simp at h <;> omega

/-- The place of a byte of segment 0 is its offset. -/
theorem physical_segment0 (off : Word) : physical (address 0 off) = some off.toNat := by
  have := off.isLt
  have e : (address 0 off).toNat = off.toNat := by rw [address_toNat]; simp
  rw [physical_low (by omega), e]

theorem segmentAnswers_zero : segmentAnswers 0 := .inl (by decide)

theorem word_add_ofNat_inj {off : Word} {i j : Nat} (hi : i < 0x10000) (hj : j < 0x10000)
    (h : (off + BitVec.ofNat 16 i).toNat = (off + BitVec.ofNat 16 j).toNat) : i = j := by
  simp only [BitVec.toNat_add, BitVec.toNat_ofNat] at h
  have := off.isLt
  omega

/-- Different bytes of an access lie at different places. -/
theorem placeOf_inj {seg : Byte} {off : Word} {i j k : Nat} (hi : i < 0x10000) (hj : j < 0x10000)
    (h : placeOf seg off i = some k) (h' : placeOf seg off j = some k) : i = j :=
  word_add_ofNat_inj hi hj ((physical_offset h).symm.trans (physical_offset h'))

theorem word_add_succ (off : Word) (j : Nat) : off + BitVec.ofNat 16 (j + 1) = off + 1 + BitVec.ofNat 16 j := by
  apply BitVec.eq_of_toNat_eq
  have h1 : (1 : Word).toNat = 1 := rfl
  simp only [BitVec.toNat_add, BitVec.toNat_ofNat, h1]
  omega

theorem placeOf_succ (seg : Byte) (off : Word) (j : Nat) : placeOf seg off (j + 1) = placeOf seg (off + 1) j := by
  simp only [placeOf, word_add_succ]

theorem placeOf_zero (seg : Byte) (off : Word) : placeOf seg off 0 = physical (address seg off) := by
  simp [placeOf]

end Sys2Proof.Machine
end

