-- ==== Sys2Proof/Laws/State.lean ====
section
/-! SUPPORT. What each update of the state does to each field, and to each view of the registers, so that no later proof
unfolds a record update. -/

namespace Sys2Proof.Machine

/-! ## One lemma per field per update -/

@[simp] theorem State.setR_regs (s : State) (n : RegNum) (v : Byte) : (s.setR n v).regs = s.regs.set n.toNat v n.isLt := rfl
@[simp] theorem State.setR_pc (s : State) (n : RegNum) (v : Byte) : (s.setR n v).pc = s.pc := rfl
@[simp] theorem State.setR_csr (s : State) (n : RegNum) (v : Byte) : (s.setR n v).csr = s.csr := rfl
@[simp] theorem State.setR_sp (s : State) (n : RegNum) (v : Byte) : (s.setR n v).sp = s.sp := rfl
@[simp] theorem State.setR_ea (s : State) (n : RegNum) (v : Byte) : (s.setR n v).ea = s.ea := rfl
@[simp] theorem State.setR_dsr (s : State) (n : RegNum) (v : Byte) : (s.setR n v).dsr = s.dsr := rfl
@[simp] theorem State.setR_cs (s : State) (n : RegNum) (v : Byte) : (s.setR n v).cs = s.cs := rfl
@[simp] theorem State.setR_elr (s : State) (n : RegNum) (v : Byte) : (s.setR n v).elr = s.elr := rfl
@[simp] theorem State.setR_ecsr (s : State) (n : RegNum) (v : Byte) : (s.setR n v).ecsr = s.ecsr := rfl
@[simp] theorem State.setR_epsw (s : State) (n : RegNum) (v : Byte) : (s.setR n v).epsw = s.epsw := rfl
@[simp] theorem State.setR_seg (s : State) (n : RegNum) (v : Byte) : (s.setR n v).seg = s.seg := rfl
@[simp] theorem State.setR_signal (s : State) (n : RegNum) (v : Byte) : (s.setR n v).signal = s.signal := rfl
@[simp] theorem State.setR_stopped (s : State) (n : RegNum) (v : Byte) : (s.setR n v).stopped = s.stopped := rfl
@[simp] theorem State.setR_mem (s : State) (n : RegNum) (v : Byte) : (s.setR n v).mem = s.mem := rfl

@[simp] theorem State.setPc_regs (s : State) (v : Word) : (s.setPc v).regs = s.regs := rfl
@[simp] theorem State.setPc_pc (s : State) (v : Word) : (s.setPc v).pc = v &&& 0xFFFE := rfl
@[simp] theorem State.setPc_csr (s : State) (v : Word) : (s.setPc v).csr = s.csr := rfl
@[simp] theorem State.setPc_sp (s : State) (v : Word) : (s.setPc v).sp = s.sp := rfl
@[simp] theorem State.setPc_ea (s : State) (v : Word) : (s.setPc v).ea = s.ea := rfl
@[simp] theorem State.setPc_dsr (s : State) (v : Word) : (s.setPc v).dsr = s.dsr := rfl
@[simp] theorem State.setPc_cs (s : State) (v : Word) : (s.setPc v).cs = s.cs := rfl
@[simp] theorem State.setPc_elr (s : State) (v : Word) : (s.setPc v).elr = s.elr := rfl
@[simp] theorem State.setPc_ecsr (s : State) (v : Word) : (s.setPc v).ecsr = s.ecsr := rfl
@[simp] theorem State.setPc_epsw (s : State) (v : Word) : (s.setPc v).epsw = s.epsw := rfl
@[simp] theorem State.setPc_seg (s : State) (v : Word) : (s.setPc v).seg = s.seg := rfl
@[simp] theorem State.setPc_signal (s : State) (v : Word) : (s.setPc v).signal = s.signal := rfl
@[simp] theorem State.setPc_stopped (s : State) (v : Word) : (s.setPc v).stopped = s.stopped := rfl
@[simp] theorem State.setPc_mem (s : State) (v : Word) : (s.setPc v).mem = s.mem := rfl

@[simp] theorem State.setCsr_regs (s : State) (v : Byte) : (s.setCsr v).regs = s.regs := rfl
@[simp] theorem State.setCsr_pc (s : State) (v : Byte) : (s.setCsr v).pc = s.pc := rfl
@[simp] theorem State.setCsr_csr (s : State) (v : Byte) : (s.setCsr v).csr = v := rfl
@[simp] theorem State.setCsr_sp (s : State) (v : Byte) : (s.setCsr v).sp = s.sp := rfl
@[simp] theorem State.setCsr_ea (s : State) (v : Byte) : (s.setCsr v).ea = s.ea := rfl
@[simp] theorem State.setCsr_dsr (s : State) (v : Byte) : (s.setCsr v).dsr = s.dsr := rfl
@[simp] theorem State.setCsr_cs (s : State) (v : Byte) : (s.setCsr v).cs = s.cs := rfl
@[simp] theorem State.setCsr_elr (s : State) (v : Byte) : (s.setCsr v).elr = s.elr := rfl
@[simp] theorem State.setCsr_ecsr (s : State) (v : Byte) : (s.setCsr v).ecsr = s.ecsr := rfl
@[simp] theorem State.setCsr_epsw (s : State) (v : Byte) : (s.setCsr v).epsw = s.epsw := rfl
@[simp] theorem State.setCsr_seg (s : State) (v : Byte) : (s.setCsr v).seg = s.seg := rfl
@[simp] theorem State.setCsr_signal (s : State) (v : Byte) : (s.setCsr v).signal = s.signal := rfl
@[simp] theorem State.setCsr_stopped (s : State) (v : Byte) : (s.setCsr v).stopped = s.stopped := rfl
@[simp] theorem State.setCsr_mem (s : State) (v : Byte) : (s.setCsr v).mem = s.mem := rfl

@[simp] theorem State.setSp_regs (s : State) (v : Word) : (s.setSp v).regs = s.regs := rfl
@[simp] theorem State.setSp_pc (s : State) (v : Word) : (s.setSp v).pc = s.pc := rfl
@[simp] theorem State.setSp_csr (s : State) (v : Word) : (s.setSp v).csr = s.csr := rfl
@[simp] theorem State.setSp_sp (s : State) (v : Word) : (s.setSp v).sp = v := rfl
@[simp] theorem State.setSp_ea (s : State) (v : Word) : (s.setSp v).ea = s.ea := rfl
@[simp] theorem State.setSp_dsr (s : State) (v : Word) : (s.setSp v).dsr = s.dsr := rfl
@[simp] theorem State.setSp_cs (s : State) (v : Word) : (s.setSp v).cs = s.cs := rfl
@[simp] theorem State.setSp_elr (s : State) (v : Word) : (s.setSp v).elr = s.elr := rfl
@[simp] theorem State.setSp_ecsr (s : State) (v : Word) : (s.setSp v).ecsr = s.ecsr := rfl
@[simp] theorem State.setSp_epsw (s : State) (v : Word) : (s.setSp v).epsw = s.epsw := rfl
@[simp] theorem State.setSp_seg (s : State) (v : Word) : (s.setSp v).seg = s.seg := rfl
@[simp] theorem State.setSp_signal (s : State) (v : Word) : (s.setSp v).signal = s.signal := rfl
@[simp] theorem State.setSp_stopped (s : State) (v : Word) : (s.setSp v).stopped = s.stopped := rfl
@[simp] theorem State.setSp_mem (s : State) (v : Word) : (s.setSp v).mem = s.mem := rfl

@[simp] theorem State.setEa_regs (s : State) (v : Word) : (s.setEa v).regs = s.regs := rfl
@[simp] theorem State.setEa_pc (s : State) (v : Word) : (s.setEa v).pc = s.pc := rfl
@[simp] theorem State.setEa_csr (s : State) (v : Word) : (s.setEa v).csr = s.csr := rfl
@[simp] theorem State.setEa_sp (s : State) (v : Word) : (s.setEa v).sp = s.sp := rfl
@[simp] theorem State.setEa_ea (s : State) (v : Word) : (s.setEa v).ea = v := rfl
@[simp] theorem State.setEa_dsr (s : State) (v : Word) : (s.setEa v).dsr = s.dsr := rfl
@[simp] theorem State.setEa_cs (s : State) (v : Word) : (s.setEa v).cs = s.cs := rfl
@[simp] theorem State.setEa_elr (s : State) (v : Word) : (s.setEa v).elr = s.elr := rfl
@[simp] theorem State.setEa_ecsr (s : State) (v : Word) : (s.setEa v).ecsr = s.ecsr := rfl
@[simp] theorem State.setEa_epsw (s : State) (v : Word) : (s.setEa v).epsw = s.epsw := rfl
@[simp] theorem State.setEa_seg (s : State) (v : Word) : (s.setEa v).seg = s.seg := rfl
@[simp] theorem State.setEa_signal (s : State) (v : Word) : (s.setEa v).signal = s.signal := rfl
@[simp] theorem State.setEa_stopped (s : State) (v : Word) : (s.setEa v).stopped = s.stopped := rfl
@[simp] theorem State.setEa_mem (s : State) (v : Word) : (s.setEa v).mem = s.mem := rfl

@[simp] theorem State.setDsr_regs (s : State) (v : Byte) : (s.setDsr v).regs = s.regs := rfl
@[simp] theorem State.setDsr_pc (s : State) (v : Byte) : (s.setDsr v).pc = s.pc := rfl
@[simp] theorem State.setDsr_csr (s : State) (v : Byte) : (s.setDsr v).csr = s.csr := rfl
@[simp] theorem State.setDsr_sp (s : State) (v : Byte) : (s.setDsr v).sp = s.sp := rfl
@[simp] theorem State.setDsr_ea (s : State) (v : Byte) : (s.setDsr v).ea = s.ea := rfl
@[simp] theorem State.setDsr_dsr (s : State) (v : Byte) : (s.setDsr v).dsr = v := rfl
@[simp] theorem State.setDsr_cs (s : State) (v : Byte) : (s.setDsr v).cs = s.cs := rfl
@[simp] theorem State.setDsr_elr (s : State) (v : Byte) : (s.setDsr v).elr = s.elr := rfl
@[simp] theorem State.setDsr_ecsr (s : State) (v : Byte) : (s.setDsr v).ecsr = s.ecsr := rfl
@[simp] theorem State.setDsr_epsw (s : State) (v : Byte) : (s.setDsr v).epsw = s.epsw := rfl
@[simp] theorem State.setDsr_seg (s : State) (v : Byte) : (s.setDsr v).seg = s.seg := rfl
@[simp] theorem State.setDsr_signal (s : State) (v : Byte) : (s.setDsr v).signal = s.signal := rfl
@[simp] theorem State.setDsr_stopped (s : State) (v : Byte) : (s.setDsr v).stopped = s.stopped := rfl
@[simp] theorem State.setDsr_mem (s : State) (v : Byte) : (s.setDsr v).mem = s.mem := rfl

@[simp] theorem State.setCs_regs (s : State) (b : Bool) : (s.setCs b).regs = s.regs := rfl
@[simp] theorem State.setCs_pc (s : State) (b : Bool) : (s.setCs b).pc = s.pc := rfl
@[simp] theorem State.setCs_csr (s : State) (b : Bool) : (s.setCs b).csr = s.csr := rfl
@[simp] theorem State.setCs_sp (s : State) (b : Bool) : (s.setCs b).sp = s.sp := rfl
@[simp] theorem State.setCs_ea (s : State) (b : Bool) : (s.setCs b).ea = s.ea := rfl
@[simp] theorem State.setCs_dsr (s : State) (b : Bool) : (s.setCs b).dsr = s.dsr := rfl
@[simp] theorem State.setCs_cs (s : State) (b : Bool) : (s.setCs b).cs = b := rfl
@[simp] theorem State.setCs_elr (s : State) (b : Bool) : (s.setCs b).elr = s.elr := rfl
@[simp] theorem State.setCs_ecsr (s : State) (b : Bool) : (s.setCs b).ecsr = s.ecsr := rfl
@[simp] theorem State.setCs_epsw (s : State) (b : Bool) : (s.setCs b).epsw = s.epsw := rfl
@[simp] theorem State.setCs_seg (s : State) (b : Bool) : (s.setCs b).seg = s.seg := rfl
@[simp] theorem State.setCs_signal (s : State) (b : Bool) : (s.setCs b).signal = s.signal := rfl
@[simp] theorem State.setCs_stopped (s : State) (b : Bool) : (s.setCs b).stopped = s.stopped := rfl
@[simp] theorem State.setCs_mem (s : State) (b : Bool) : (s.setCs b).mem = s.mem := rfl

@[simp] theorem State.setSeg_regs (s : State) (v : Byte) : (s.setSeg v).regs = s.regs := rfl
@[simp] theorem State.setSeg_pc (s : State) (v : Byte) : (s.setSeg v).pc = s.pc := rfl
@[simp] theorem State.setSeg_csr (s : State) (v : Byte) : (s.setSeg v).csr = s.csr := rfl
@[simp] theorem State.setSeg_sp (s : State) (v : Byte) : (s.setSeg v).sp = s.sp := rfl
@[simp] theorem State.setSeg_ea (s : State) (v : Byte) : (s.setSeg v).ea = s.ea := rfl
@[simp] theorem State.setSeg_dsr (s : State) (v : Byte) : (s.setSeg v).dsr = s.dsr := rfl
@[simp] theorem State.setSeg_cs (s : State) (v : Byte) : (s.setSeg v).cs = s.cs := rfl
@[simp] theorem State.setSeg_elr (s : State) (v : Byte) : (s.setSeg v).elr = s.elr := rfl
@[simp] theorem State.setSeg_ecsr (s : State) (v : Byte) : (s.setSeg v).ecsr = s.ecsr := rfl
@[simp] theorem State.setSeg_epsw (s : State) (v : Byte) : (s.setSeg v).epsw = s.epsw := rfl
@[simp] theorem State.setSeg_seg (s : State) (v : Byte) : (s.setSeg v).seg = v := rfl
@[simp] theorem State.setSeg_signal (s : State) (v : Byte) : (s.setSeg v).signal = s.signal := rfl
@[simp] theorem State.setSeg_stopped (s : State) (v : Byte) : (s.setSeg v).stopped = s.stopped := rfl
@[simp] theorem State.setSeg_mem (s : State) (v : Byte) : (s.setSeg v).mem = s.mem := rfl

@[simp] theorem State.setSignal_regs (s : State) (x : Option Signal) : (s.setSignal x).regs = s.regs := rfl
@[simp] theorem State.setSignal_pc (s : State) (x : Option Signal) : (s.setSignal x).pc = s.pc := rfl
@[simp] theorem State.setSignal_csr (s : State) (x : Option Signal) : (s.setSignal x).csr = s.csr := rfl
@[simp] theorem State.setSignal_sp (s : State) (x : Option Signal) : (s.setSignal x).sp = s.sp := rfl
@[simp] theorem State.setSignal_ea (s : State) (x : Option Signal) : (s.setSignal x).ea = s.ea := rfl
@[simp] theorem State.setSignal_dsr (s : State) (x : Option Signal) : (s.setSignal x).dsr = s.dsr := rfl
@[simp] theorem State.setSignal_cs (s : State) (x : Option Signal) : (s.setSignal x).cs = s.cs := rfl
@[simp] theorem State.setSignal_elr (s : State) (x : Option Signal) : (s.setSignal x).elr = s.elr := rfl
@[simp] theorem State.setSignal_ecsr (s : State) (x : Option Signal) : (s.setSignal x).ecsr = s.ecsr := rfl
@[simp] theorem State.setSignal_epsw (s : State) (x : Option Signal) : (s.setSignal x).epsw = s.epsw := rfl
@[simp] theorem State.setSignal_seg (s : State) (x : Option Signal) : (s.setSignal x).seg = s.seg := rfl
@[simp] theorem State.setSignal_signal (s : State) (x : Option Signal) : (s.setSignal x).signal = x := rfl
@[simp] theorem State.setSignal_stopped (s : State) (x : Option Signal) : (s.setSignal x).stopped = s.stopped := rfl
@[simp] theorem State.setSignal_mem (s : State) (x : Option Signal) : (s.setSignal x).mem = s.mem := rfl

@[simp] theorem State.setStopped_regs (s : State) (b : Bool) : (s.setStopped b).regs = s.regs := rfl
@[simp] theorem State.setStopped_pc (s : State) (b : Bool) : (s.setStopped b).pc = s.pc := rfl
@[simp] theorem State.setStopped_csr (s : State) (b : Bool) : (s.setStopped b).csr = s.csr := rfl
@[simp] theorem State.setStopped_sp (s : State) (b : Bool) : (s.setStopped b).sp = s.sp := rfl
@[simp] theorem State.setStopped_ea (s : State) (b : Bool) : (s.setStopped b).ea = s.ea := rfl
@[simp] theorem State.setStopped_dsr (s : State) (b : Bool) : (s.setStopped b).dsr = s.dsr := rfl
@[simp] theorem State.setStopped_cs (s : State) (b : Bool) : (s.setStopped b).cs = s.cs := rfl
@[simp] theorem State.setStopped_elr (s : State) (b : Bool) : (s.setStopped b).elr = s.elr := rfl
@[simp] theorem State.setStopped_ecsr (s : State) (b : Bool) : (s.setStopped b).ecsr = s.ecsr := rfl
@[simp] theorem State.setStopped_epsw (s : State) (b : Bool) : (s.setStopped b).epsw = s.epsw := rfl
@[simp] theorem State.setStopped_seg (s : State) (b : Bool) : (s.setStopped b).seg = s.seg := rfl
@[simp] theorem State.setStopped_signal (s : State) (b : Bool) : (s.setStopped b).signal = s.signal := rfl
@[simp] theorem State.setStopped_stopped (s : State) (b : Bool) : (s.setStopped b).stopped = b := rfl
@[simp] theorem State.setStopped_mem (s : State) (b : Bool) : (s.setStopped b).mem = s.mem := rfl

@[simp] theorem State.setMem_regs (s : State) (m : Memory) : (s.setMem m).regs = s.regs := rfl
@[simp] theorem State.setMem_pc (s : State) (m : Memory) : (s.setMem m).pc = s.pc := rfl
@[simp] theorem State.setMem_csr (s : State) (m : Memory) : (s.setMem m).csr = s.csr := rfl
@[simp] theorem State.setMem_sp (s : State) (m : Memory) : (s.setMem m).sp = s.sp := rfl
@[simp] theorem State.setMem_ea (s : State) (m : Memory) : (s.setMem m).ea = s.ea := rfl
@[simp] theorem State.setMem_dsr (s : State) (m : Memory) : (s.setMem m).dsr = s.dsr := rfl
@[simp] theorem State.setMem_cs (s : State) (m : Memory) : (s.setMem m).cs = s.cs := rfl
@[simp] theorem State.setMem_elr (s : State) (m : Memory) : (s.setMem m).elr = s.elr := rfl
@[simp] theorem State.setMem_ecsr (s : State) (m : Memory) : (s.setMem m).ecsr = s.ecsr := rfl
@[simp] theorem State.setMem_epsw (s : State) (m : Memory) : (s.setMem m).epsw = s.epsw := rfl
@[simp] theorem State.setMem_seg (s : State) (m : Memory) : (s.setMem m).seg = s.seg := rfl
@[simp] theorem State.setMem_signal (s : State) (m : Memory) : (s.setMem m).signal = s.signal := rfl
@[simp] theorem State.setMem_stopped (s : State) (m : Memory) : (s.setMem m).stopped = s.stopped := rfl
@[simp] theorem State.setMem_mem (s : State) (m : Memory) : (s.setMem m).mem = m := rfl

@[simp] theorem State.setElr_regs (s : State) (l : BitVec 2) (v : Word) : (s.setElr l v).regs = s.regs := rfl
@[simp] theorem State.setElr_pc (s : State) (l : BitVec 2) (v : Word) : (s.setElr l v).pc = s.pc := rfl
@[simp] theorem State.setElr_csr (s : State) (l : BitVec 2) (v : Word) : (s.setElr l v).csr = s.csr := rfl
@[simp] theorem State.setElr_sp (s : State) (l : BitVec 2) (v : Word) : (s.setElr l v).sp = s.sp := rfl
@[simp] theorem State.setElr_ea (s : State) (l : BitVec 2) (v : Word) : (s.setElr l v).ea = s.ea := rfl
@[simp] theorem State.setElr_dsr (s : State) (l : BitVec 2) (v : Word) : (s.setElr l v).dsr = s.dsr := rfl
@[simp] theorem State.setElr_cs (s : State) (l : BitVec 2) (v : Word) : (s.setElr l v).cs = s.cs := rfl
@[simp] theorem State.setElr_elr (s : State) (l : BitVec 2) (v : Word) : (s.setElr l v).elr = s.elr.set l.toNat v l.isLt := rfl
@[simp] theorem State.setElr_ecsr (s : State) (l : BitVec 2) (v : Word) : (s.setElr l v).ecsr = s.ecsr := rfl
@[simp] theorem State.setElr_epsw (s : State) (l : BitVec 2) (v : Word) : (s.setElr l v).epsw = s.epsw := rfl
@[simp] theorem State.setElr_seg (s : State) (l : BitVec 2) (v : Word) : (s.setElr l v).seg = s.seg := rfl
@[simp] theorem State.setElr_signal (s : State) (l : BitVec 2) (v : Word) : (s.setElr l v).signal = s.signal := rfl
@[simp] theorem State.setElr_stopped (s : State) (l : BitVec 2) (v : Word) : (s.setElr l v).stopped = s.stopped := rfl
@[simp] theorem State.setElr_mem (s : State) (l : BitVec 2) (v : Word) : (s.setElr l v).mem = s.mem := rfl

@[simp] theorem State.setEcsr_regs (s : State) (l : BitVec 2) (v : Byte) : (s.setEcsr l v).regs = s.regs := rfl
@[simp] theorem State.setEcsr_pc (s : State) (l : BitVec 2) (v : Byte) : (s.setEcsr l v).pc = s.pc := rfl
@[simp] theorem State.setEcsr_csr (s : State) (l : BitVec 2) (v : Byte) : (s.setEcsr l v).csr = s.csr := rfl
@[simp] theorem State.setEcsr_sp (s : State) (l : BitVec 2) (v : Byte) : (s.setEcsr l v).sp = s.sp := rfl
@[simp] theorem State.setEcsr_ea (s : State) (l : BitVec 2) (v : Byte) : (s.setEcsr l v).ea = s.ea := rfl
@[simp] theorem State.setEcsr_dsr (s : State) (l : BitVec 2) (v : Byte) : (s.setEcsr l v).dsr = s.dsr := rfl
@[simp] theorem State.setEcsr_cs (s : State) (l : BitVec 2) (v : Byte) : (s.setEcsr l v).cs = s.cs := rfl
@[simp] theorem State.setEcsr_elr (s : State) (l : BitVec 2) (v : Byte) : (s.setEcsr l v).elr = s.elr := rfl
@[simp] theorem State.setEcsr_ecsr (s : State) (l : BitVec 2) (v : Byte) : (s.setEcsr l v).ecsr = s.ecsr.set l.toNat v l.isLt := rfl
@[simp] theorem State.setEcsr_epsw (s : State) (l : BitVec 2) (v : Byte) : (s.setEcsr l v).epsw = s.epsw := rfl
@[simp] theorem State.setEcsr_seg (s : State) (l : BitVec 2) (v : Byte) : (s.setEcsr l v).seg = s.seg := rfl
@[simp] theorem State.setEcsr_signal (s : State) (l : BitVec 2) (v : Byte) : (s.setEcsr l v).signal = s.signal := rfl
@[simp] theorem State.setEcsr_stopped (s : State) (l : BitVec 2) (v : Byte) : (s.setEcsr l v).stopped = s.stopped := rfl
@[simp] theorem State.setEcsr_mem (s : State) (l : BitVec 2) (v : Byte) : (s.setEcsr l v).mem = s.mem := rfl

@[simp] theorem State.setEpsw_regs (s : State) (l : BitVec 2) (v : Byte) : (s.setEpsw l v).regs = s.regs := rfl
@[simp] theorem State.setEpsw_pc (s : State) (l : BitVec 2) (v : Byte) : (s.setEpsw l v).pc = s.pc := rfl
@[simp] theorem State.setEpsw_csr (s : State) (l : BitVec 2) (v : Byte) : (s.setEpsw l v).csr = s.csr := rfl
@[simp] theorem State.setEpsw_sp (s : State) (l : BitVec 2) (v : Byte) : (s.setEpsw l v).sp = s.sp := rfl
@[simp] theorem State.setEpsw_ea (s : State) (l : BitVec 2) (v : Byte) : (s.setEpsw l v).ea = s.ea := rfl
@[simp] theorem State.setEpsw_dsr (s : State) (l : BitVec 2) (v : Byte) : (s.setEpsw l v).dsr = s.dsr := rfl
@[simp] theorem State.setEpsw_cs (s : State) (l : BitVec 2) (v : Byte) : (s.setEpsw l v).cs = s.cs := rfl
@[simp] theorem State.setEpsw_elr (s : State) (l : BitVec 2) (v : Byte) : (s.setEpsw l v).elr = s.elr := rfl
@[simp] theorem State.setEpsw_ecsr (s : State) (l : BitVec 2) (v : Byte) : (s.setEpsw l v).ecsr = s.ecsr := rfl
@[simp] theorem State.setEpsw_epsw (s : State) (l : BitVec 2) (v : Byte) : (s.setEpsw l v).epsw = s.epsw.set l.toNat v l.isLt := rfl
@[simp] theorem State.setEpsw_seg (s : State) (l : BitVec 2) (v : Byte) : (s.setEpsw l v).seg = s.seg := rfl
@[simp] theorem State.setEpsw_signal (s : State) (l : BitVec 2) (v : Byte) : (s.setEpsw l v).signal = s.signal := rfl
@[simp] theorem State.setEpsw_stopped (s : State) (l : BitVec 2) (v : Byte) : (s.setEpsw l v).stopped = s.stopped := rfl
@[simp] theorem State.setEpsw_mem (s : State) (l : BitVec 2) (v : Byte) : (s.setEpsw l v).mem = s.mem := rfl

@[simp] theorem State.setPsw_regs (s : State) (p : Byte) : (s.setPsw p).regs = s.regs := rfl
@[simp] theorem State.setPsw_pc (s : State) (p : Byte) : (s.setPsw p).pc = s.pc := rfl
@[simp] theorem State.setPsw_csr (s : State) (p : Byte) : (s.setPsw p).csr = s.csr := rfl
@[simp] theorem State.setPsw_sp (s : State) (p : Byte) : (s.setPsw p).sp = s.sp := rfl
@[simp] theorem State.setPsw_ea (s : State) (p : Byte) : (s.setPsw p).ea = s.ea := rfl
@[simp] theorem State.setPsw_dsr (s : State) (p : Byte) : (s.setPsw p).dsr = s.dsr := rfl
@[simp] theorem State.setPsw_cs (s : State) (p : Byte) : (s.setPsw p).cs = s.cs := rfl
@[simp] theorem State.setPsw_elr (s : State) (p : Byte) : (s.setPsw p).elr = s.elr := rfl
@[simp] theorem State.setPsw_ecsr (s : State) (p : Byte) : (s.setPsw p).ecsr = s.ecsr := rfl
@[simp] theorem State.setPsw_epsw (s : State) (p : Byte) : (s.setPsw p).epsw = s.epsw.set 0 p := rfl
@[simp] theorem State.setPsw_seg (s : State) (p : Byte) : (s.setPsw p).seg = s.seg := rfl
@[simp] theorem State.setPsw_signal (s : State) (p : Byte) : (s.setPsw p).signal = s.signal := rfl
@[simp] theorem State.setPsw_stopped (s : State) (p : Byte) : (s.setPsw p).stopped = s.stopped := rfl
@[simp] theorem State.setPsw_mem (s : State) (p : Byte) : (s.setPsw p).mem = s.mem := rfl

@[simp] theorem State.setArith_regs (s : State) (f : Flags) : (s.setArith f).regs = s.regs := rfl
@[simp] theorem State.setArith_pc (s : State) (f : Flags) : (s.setArith f).pc = s.pc := rfl
@[simp] theorem State.setArith_csr (s : State) (f : Flags) : (s.setArith f).csr = s.csr := rfl
@[simp] theorem State.setArith_sp (s : State) (f : Flags) : (s.setArith f).sp = s.sp := rfl
@[simp] theorem State.setArith_ea (s : State) (f : Flags) : (s.setArith f).ea = s.ea := rfl
@[simp] theorem State.setArith_dsr (s : State) (f : Flags) : (s.setArith f).dsr = s.dsr := rfl
@[simp] theorem State.setArith_cs (s : State) (f : Flags) : (s.setArith f).cs = s.cs := rfl
@[simp] theorem State.setArith_elr (s : State) (f : Flags) : (s.setArith f).elr = s.elr := rfl
@[simp] theorem State.setArith_ecsr (s : State) (f : Flags) : (s.setArith f).ecsr = s.ecsr := rfl
@[simp] theorem State.setArith_epsw (s : State) (f : Flags) : (s.setArith f).epsw = s.epsw.set 0 (withArith s.psw f) := rfl
@[simp] theorem State.setArith_seg (s : State) (f : Flags) : (s.setArith f).seg = s.seg := rfl
@[simp] theorem State.setArith_signal (s : State) (f : Flags) : (s.setArith f).signal = s.signal := rfl
@[simp] theorem State.setArith_stopped (s : State) (f : Flags) : (s.setArith f).stopped = s.stopped := rfl
@[simp] theorem State.setArith_mem (s : State) (f : Flags) : (s.setArith f).mem = s.mem := rfl

@[simp] theorem State.setZS_regs (s : State) {w : Nat} (v : BitVec w) : (s.setZS v).regs = s.regs := rfl
@[simp] theorem State.setZS_pc (s : State) {w : Nat} (v : BitVec w) : (s.setZS v).pc = s.pc := rfl
@[simp] theorem State.setZS_csr (s : State) {w : Nat} (v : BitVec w) : (s.setZS v).csr = s.csr := rfl
@[simp] theorem State.setZS_sp (s : State) {w : Nat} (v : BitVec w) : (s.setZS v).sp = s.sp := rfl
@[simp] theorem State.setZS_ea (s : State) {w : Nat} (v : BitVec w) : (s.setZS v).ea = s.ea := rfl
@[simp] theorem State.setZS_dsr (s : State) {w : Nat} (v : BitVec w) : (s.setZS v).dsr = s.dsr := rfl
@[simp] theorem State.setZS_cs (s : State) {w : Nat} (v : BitVec w) : (s.setZS v).cs = s.cs := rfl
@[simp] theorem State.setZS_elr (s : State) {w : Nat} (v : BitVec w) : (s.setZS v).elr = s.elr := rfl
@[simp] theorem State.setZS_ecsr (s : State) {w : Nat} (v : BitVec w) : (s.setZS v).ecsr = s.ecsr := rfl
@[simp] theorem State.setZS_epsw (s : State) {w : Nat} (v : BitVec w) : (s.setZS v).epsw = s.epsw.set 0 (withZS s.psw v) := rfl
@[simp] theorem State.setZS_seg (s : State) {w : Nat} (v : BitVec w) : (s.setZS v).seg = s.seg := rfl
@[simp] theorem State.setZS_signal (s : State) {w : Nat} (v : BitVec w) : (s.setZS v).signal = s.signal := rfl
@[simp] theorem State.setZS_stopped (s : State) {w : Nat} (v : BitVec w) : (s.setZS v).stopped = s.stopped := rfl
@[simp] theorem State.setZS_mem (s : State) {w : Nat} (v : BitVec w) : (s.setZS v).mem = s.mem := rfl

@[simp] theorem State.setC_regs (s : State) (b : Bool) : (s.setC b).regs = s.regs := rfl
@[simp] theorem State.setC_pc (s : State) (b : Bool) : (s.setC b).pc = s.pc := rfl
@[simp] theorem State.setC_csr (s : State) (b : Bool) : (s.setC b).csr = s.csr := rfl
@[simp] theorem State.setC_sp (s : State) (b : Bool) : (s.setC b).sp = s.sp := rfl
@[simp] theorem State.setC_ea (s : State) (b : Bool) : (s.setC b).ea = s.ea := rfl
@[simp] theorem State.setC_dsr (s : State) (b : Bool) : (s.setC b).dsr = s.dsr := rfl
@[simp] theorem State.setC_cs (s : State) (b : Bool) : (s.setC b).cs = s.cs := rfl
@[simp] theorem State.setC_elr (s : State) (b : Bool) : (s.setC b).elr = s.elr := rfl
@[simp] theorem State.setC_ecsr (s : State) (b : Bool) : (s.setC b).ecsr = s.ecsr := rfl
@[simp] theorem State.setC_epsw (s : State) (b : Bool) : (s.setC b).epsw = s.epsw.set 0 (withC s.psw b) := rfl
@[simp] theorem State.setC_seg (s : State) (b : Bool) : (s.setC b).seg = s.seg := rfl
@[simp] theorem State.setC_signal (s : State) (b : Bool) : (s.setC b).signal = s.signal := rfl
@[simp] theorem State.setC_stopped (s : State) (b : Bool) : (s.setC b).stopped = s.stopped := rfl
@[simp] theorem State.setC_mem (s : State) (b : Bool) : (s.setC b).mem = s.mem := rfl

@[simp] theorem State.setZ_regs (s : State) (b : Bool) : (s.setZ b).regs = s.regs := rfl
@[simp] theorem State.setZ_pc (s : State) (b : Bool) : (s.setZ b).pc = s.pc := rfl
@[simp] theorem State.setZ_csr (s : State) (b : Bool) : (s.setZ b).csr = s.csr := rfl
@[simp] theorem State.setZ_sp (s : State) (b : Bool) : (s.setZ b).sp = s.sp := rfl
@[simp] theorem State.setZ_ea (s : State) (b : Bool) : (s.setZ b).ea = s.ea := rfl
@[simp] theorem State.setZ_dsr (s : State) (b : Bool) : (s.setZ b).dsr = s.dsr := rfl
@[simp] theorem State.setZ_cs (s : State) (b : Bool) : (s.setZ b).cs = s.cs := rfl
@[simp] theorem State.setZ_elr (s : State) (b : Bool) : (s.setZ b).elr = s.elr := rfl
@[simp] theorem State.setZ_ecsr (s : State) (b : Bool) : (s.setZ b).ecsr = s.ecsr := rfl
@[simp] theorem State.setZ_epsw (s : State) (b : Bool) : (s.setZ b).epsw = s.epsw.set 0 (withZ s.psw b) := rfl
@[simp] theorem State.setZ_seg (s : State) (b : Bool) : (s.setZ b).seg = s.seg := rfl
@[simp] theorem State.setZ_signal (s : State) (b : Bool) : (s.setZ b).signal = s.signal := rfl
@[simp] theorem State.setZ_stopped (s : State) (b : Bool) : (s.setZ b).stopped = s.stopped := rfl
@[simp] theorem State.setZ_mem (s : State) (b : Bool) : (s.setZ b).mem = s.mem := rfl

@[simp] theorem State.setMIE_regs (s : State) (b : Bool) : (s.setMIE b).regs = s.regs := rfl
@[simp] theorem State.setMIE_pc (s : State) (b : Bool) : (s.setMIE b).pc = s.pc := rfl
@[simp] theorem State.setMIE_csr (s : State) (b : Bool) : (s.setMIE b).csr = s.csr := rfl
@[simp] theorem State.setMIE_sp (s : State) (b : Bool) : (s.setMIE b).sp = s.sp := rfl
@[simp] theorem State.setMIE_ea (s : State) (b : Bool) : (s.setMIE b).ea = s.ea := rfl
@[simp] theorem State.setMIE_dsr (s : State) (b : Bool) : (s.setMIE b).dsr = s.dsr := rfl
@[simp] theorem State.setMIE_cs (s : State) (b : Bool) : (s.setMIE b).cs = s.cs := rfl
@[simp] theorem State.setMIE_elr (s : State) (b : Bool) : (s.setMIE b).elr = s.elr := rfl
@[simp] theorem State.setMIE_ecsr (s : State) (b : Bool) : (s.setMIE b).ecsr = s.ecsr := rfl
@[simp] theorem State.setMIE_epsw (s : State) (b : Bool) : (s.setMIE b).epsw = s.epsw.set 0 (withMIE s.psw b) := rfl
@[simp] theorem State.setMIE_seg (s : State) (b : Bool) : (s.setMIE b).seg = s.seg := rfl
@[simp] theorem State.setMIE_signal (s : State) (b : Bool) : (s.setMIE b).signal = s.signal := rfl
@[simp] theorem State.setMIE_stopped (s : State) (b : Bool) : (s.setMIE b).stopped = s.stopped := rfl
@[simp] theorem State.setMIE_mem (s : State) (b : Bool) : (s.setMIE b).mem = s.mem := rfl

@[simp] theorem State.setLink_regs (s : State) (lr : Word) (c : Byte) : (s.setLink lr c).regs = s.regs := rfl
@[simp] theorem State.setLink_pc (s : State) (lr : Word) (c : Byte) : (s.setLink lr c).pc = s.pc := rfl
@[simp] theorem State.setLink_csr (s : State) (lr : Word) (c : Byte) : (s.setLink lr c).csr = s.csr := rfl
@[simp] theorem State.setLink_sp (s : State) (lr : Word) (c : Byte) : (s.setLink lr c).sp = s.sp := rfl
@[simp] theorem State.setLink_ea (s : State) (lr : Word) (c : Byte) : (s.setLink lr c).ea = s.ea := rfl
@[simp] theorem State.setLink_dsr (s : State) (lr : Word) (c : Byte) : (s.setLink lr c).dsr = s.dsr := rfl
@[simp] theorem State.setLink_cs (s : State) (lr : Word) (c : Byte) : (s.setLink lr c).cs = s.cs := rfl
@[simp] theorem State.setLink_elr (s : State) (lr : Word) (c : Byte) : (s.setLink lr c).elr = s.elr.set 0 lr := rfl
@[simp] theorem State.setLink_ecsr (s : State) (lr : Word) (c : Byte) : (s.setLink lr c).ecsr = s.ecsr.set 0 c := rfl
@[simp] theorem State.setLink_epsw (s : State) (lr : Word) (c : Byte) : (s.setLink lr c).epsw = s.epsw := rfl
@[simp] theorem State.setLink_seg (s : State) (lr : Word) (c : Byte) : (s.setLink lr c).seg = s.seg := rfl
@[simp] theorem State.setLink_signal (s : State) (lr : Word) (c : Byte) : (s.setLink lr c).signal = s.signal := rfl
@[simp] theorem State.setLink_stopped (s : State) (lr : Word) (c : Byte) : (s.setLink lr c).stopped = s.stopped := rfl
@[simp] theorem State.setLink_mem (s : State) (lr : Word) (c : Byte) : (s.setLink lr c).mem = s.mem := rfl

/-! ## The views: registers, register groups, banks, PSW -/

/-- A register group depends on the register cells alone. -/
theorem State.group_congr {s t : State} (h : s.regs = t.regs) : ∀ (k : Nat) (n : RegNum), s.group k n = t.group k n
  | 0, _ => rfl
  | k + 1, n => by
    have hr : s.r n = t.r n := by simp only [State.r, h]
    simp only [State.group, State.group_congr h k (n + 1), hr]

/-- A 16-bit pair depends on the register cells alone. -/
theorem State.er_congr {s t : State} (h : s.regs = t.regs) (n : RegNum) : s.er n = t.er n := State.group_congr h 2 n

@[simp] theorem State.setR_elrOf (s : State) (n : RegNum) (v : Byte) (i : BitVec 2) : (s.setR n v).elrOf i = s.elrOf i := rfl
@[simp] theorem State.setR_ecsrOf (s : State) (n : RegNum) (v : Byte) (i : BitVec 2) : (s.setR n v).ecsrOf i = s.ecsrOf i := rfl
@[simp] theorem State.setR_epswOf (s : State) (n : RegNum) (v : Byte) (i : BitVec 2) : (s.setR n v).epswOf i = s.epswOf i := rfl
@[simp] theorem State.setR_psw (s : State) (n : RegNum) (v : Byte) : (s.setR n v).psw = s.psw := rfl
@[simp] theorem State.setR_level (s : State) (n : RegNum) (v : Byte) : (s.setR n v).level = s.level := rfl
@[simp] theorem State.setPc_r (s : State) (v : Word) (i : RegNum) : (s.setPc v).r i = s.r i := rfl
@[simp] theorem State.setPc_group (s : State) (v : Word) (k : Nat) (i : RegNum) : (s.setPc v).group k i = s.group k i := State.group_congr (s := s.setPc v) (t := s) rfl k i
@[simp] theorem State.setPc_er (s : State) (v : Word) (i : RegNum) : (s.setPc v).er i = s.er i := State.group_congr (s := s.setPc v) (t := s) rfl 2 i
@[simp] theorem State.setPc_elrOf (s : State) (v : Word) (i : BitVec 2) : (s.setPc v).elrOf i = s.elrOf i := rfl
@[simp] theorem State.setPc_ecsrOf (s : State) (v : Word) (i : BitVec 2) : (s.setPc v).ecsrOf i = s.ecsrOf i := rfl
@[simp] theorem State.setPc_epswOf (s : State) (v : Word) (i : BitVec 2) : (s.setPc v).epswOf i = s.epswOf i := rfl
@[simp] theorem State.setPc_psw (s : State) (v : Word) : (s.setPc v).psw = s.psw := rfl
@[simp] theorem State.setPc_level (s : State) (v : Word) : (s.setPc v).level = s.level := rfl
@[simp] theorem State.setCsr_r (s : State) (v : Byte) (i : RegNum) : (s.setCsr v).r i = s.r i := rfl
@[simp] theorem State.setCsr_group (s : State) (v : Byte) (k : Nat) (i : RegNum) : (s.setCsr v).group k i = s.group k i := State.group_congr (s := s.setCsr v) (t := s) rfl k i
@[simp] theorem State.setCsr_er (s : State) (v : Byte) (i : RegNum) : (s.setCsr v).er i = s.er i := State.group_congr (s := s.setCsr v) (t := s) rfl 2 i
@[simp] theorem State.setCsr_elrOf (s : State) (v : Byte) (i : BitVec 2) : (s.setCsr v).elrOf i = s.elrOf i := rfl
@[simp] theorem State.setCsr_ecsrOf (s : State) (v : Byte) (i : BitVec 2) : (s.setCsr v).ecsrOf i = s.ecsrOf i := rfl
@[simp] theorem State.setCsr_epswOf (s : State) (v : Byte) (i : BitVec 2) : (s.setCsr v).epswOf i = s.epswOf i := rfl
@[simp] theorem State.setCsr_psw (s : State) (v : Byte) : (s.setCsr v).psw = s.psw := rfl
@[simp] theorem State.setCsr_level (s : State) (v : Byte) : (s.setCsr v).level = s.level := rfl
@[simp] theorem State.setSp_r (s : State) (v : Word) (i : RegNum) : (s.setSp v).r i = s.r i := rfl
@[simp] theorem State.setSp_group (s : State) (v : Word) (k : Nat) (i : RegNum) : (s.setSp v).group k i = s.group k i := State.group_congr (s := s.setSp v) (t := s) rfl k i
@[simp] theorem State.setSp_er (s : State) (v : Word) (i : RegNum) : (s.setSp v).er i = s.er i := State.group_congr (s := s.setSp v) (t := s) rfl 2 i
@[simp] theorem State.setSp_elrOf (s : State) (v : Word) (i : BitVec 2) : (s.setSp v).elrOf i = s.elrOf i := rfl
@[simp] theorem State.setSp_ecsrOf (s : State) (v : Word) (i : BitVec 2) : (s.setSp v).ecsrOf i = s.ecsrOf i := rfl
@[simp] theorem State.setSp_epswOf (s : State) (v : Word) (i : BitVec 2) : (s.setSp v).epswOf i = s.epswOf i := rfl
@[simp] theorem State.setSp_psw (s : State) (v : Word) : (s.setSp v).psw = s.psw := rfl
@[simp] theorem State.setSp_level (s : State) (v : Word) : (s.setSp v).level = s.level := rfl
@[simp] theorem State.setEa_r (s : State) (v : Word) (i : RegNum) : (s.setEa v).r i = s.r i := rfl
@[simp] theorem State.setEa_group (s : State) (v : Word) (k : Nat) (i : RegNum) : (s.setEa v).group k i = s.group k i := State.group_congr (s := s.setEa v) (t := s) rfl k i
@[simp] theorem State.setEa_er (s : State) (v : Word) (i : RegNum) : (s.setEa v).er i = s.er i := State.group_congr (s := s.setEa v) (t := s) rfl 2 i
@[simp] theorem State.setEa_elrOf (s : State) (v : Word) (i : BitVec 2) : (s.setEa v).elrOf i = s.elrOf i := rfl
@[simp] theorem State.setEa_ecsrOf (s : State) (v : Word) (i : BitVec 2) : (s.setEa v).ecsrOf i = s.ecsrOf i := rfl
@[simp] theorem State.setEa_epswOf (s : State) (v : Word) (i : BitVec 2) : (s.setEa v).epswOf i = s.epswOf i := rfl
@[simp] theorem State.setEa_psw (s : State) (v : Word) : (s.setEa v).psw = s.psw := rfl
@[simp] theorem State.setEa_level (s : State) (v : Word) : (s.setEa v).level = s.level := rfl
@[simp] theorem State.setDsr_r (s : State) (v : Byte) (i : RegNum) : (s.setDsr v).r i = s.r i := rfl
@[simp] theorem State.setDsr_group (s : State) (v : Byte) (k : Nat) (i : RegNum) : (s.setDsr v).group k i = s.group k i := State.group_congr (s := s.setDsr v) (t := s) rfl k i
@[simp] theorem State.setDsr_er (s : State) (v : Byte) (i : RegNum) : (s.setDsr v).er i = s.er i := State.group_congr (s := s.setDsr v) (t := s) rfl 2 i
@[simp] theorem State.setDsr_elrOf (s : State) (v : Byte) (i : BitVec 2) : (s.setDsr v).elrOf i = s.elrOf i := rfl
@[simp] theorem State.setDsr_ecsrOf (s : State) (v : Byte) (i : BitVec 2) : (s.setDsr v).ecsrOf i = s.ecsrOf i := rfl
@[simp] theorem State.setDsr_epswOf (s : State) (v : Byte) (i : BitVec 2) : (s.setDsr v).epswOf i = s.epswOf i := rfl
@[simp] theorem State.setDsr_psw (s : State) (v : Byte) : (s.setDsr v).psw = s.psw := rfl
@[simp] theorem State.setDsr_level (s : State) (v : Byte) : (s.setDsr v).level = s.level := rfl
@[simp] theorem State.setCs_r (s : State) (b : Bool) (i : RegNum) : (s.setCs b).r i = s.r i := rfl
@[simp] theorem State.setCs_group (s : State) (b : Bool) (k : Nat) (i : RegNum) : (s.setCs b).group k i = s.group k i := State.group_congr (s := s.setCs b) (t := s) rfl k i
@[simp] theorem State.setCs_er (s : State) (b : Bool) (i : RegNum) : (s.setCs b).er i = s.er i := State.group_congr (s := s.setCs b) (t := s) rfl 2 i
@[simp] theorem State.setCs_elrOf (s : State) (b : Bool) (i : BitVec 2) : (s.setCs b).elrOf i = s.elrOf i := rfl
@[simp] theorem State.setCs_ecsrOf (s : State) (b : Bool) (i : BitVec 2) : (s.setCs b).ecsrOf i = s.ecsrOf i := rfl
@[simp] theorem State.setCs_epswOf (s : State) (b : Bool) (i : BitVec 2) : (s.setCs b).epswOf i = s.epswOf i := rfl
@[simp] theorem State.setCs_psw (s : State) (b : Bool) : (s.setCs b).psw = s.psw := rfl
@[simp] theorem State.setCs_level (s : State) (b : Bool) : (s.setCs b).level = s.level := rfl
@[simp] theorem State.setSeg_r (s : State) (v : Byte) (i : RegNum) : (s.setSeg v).r i = s.r i := rfl
@[simp] theorem State.setSeg_group (s : State) (v : Byte) (k : Nat) (i : RegNum) : (s.setSeg v).group k i = s.group k i := State.group_congr (s := s.setSeg v) (t := s) rfl k i
@[simp] theorem State.setSeg_er (s : State) (v : Byte) (i : RegNum) : (s.setSeg v).er i = s.er i := State.group_congr (s := s.setSeg v) (t := s) rfl 2 i
@[simp] theorem State.setSeg_elrOf (s : State) (v : Byte) (i : BitVec 2) : (s.setSeg v).elrOf i = s.elrOf i := rfl
@[simp] theorem State.setSeg_ecsrOf (s : State) (v : Byte) (i : BitVec 2) : (s.setSeg v).ecsrOf i = s.ecsrOf i := rfl
@[simp] theorem State.setSeg_epswOf (s : State) (v : Byte) (i : BitVec 2) : (s.setSeg v).epswOf i = s.epswOf i := rfl
@[simp] theorem State.setSeg_psw (s : State) (v : Byte) : (s.setSeg v).psw = s.psw := rfl
@[simp] theorem State.setSeg_level (s : State) (v : Byte) : (s.setSeg v).level = s.level := rfl
@[simp] theorem State.setSignal_r (s : State) (x : Option Signal) (i : RegNum) : (s.setSignal x).r i = s.r i := rfl
@[simp] theorem State.setSignal_group (s : State) (x : Option Signal) (k : Nat) (i : RegNum) : (s.setSignal x).group k i = s.group k i := State.group_congr (s := s.setSignal x) (t := s) rfl k i
@[simp] theorem State.setSignal_er (s : State) (x : Option Signal) (i : RegNum) : (s.setSignal x).er i = s.er i := State.group_congr (s := s.setSignal x) (t := s) rfl 2 i
@[simp] theorem State.setSignal_elrOf (s : State) (x : Option Signal) (i : BitVec 2) : (s.setSignal x).elrOf i = s.elrOf i := rfl
@[simp] theorem State.setSignal_ecsrOf (s : State) (x : Option Signal) (i : BitVec 2) : (s.setSignal x).ecsrOf i = s.ecsrOf i := rfl
@[simp] theorem State.setSignal_epswOf (s : State) (x : Option Signal) (i : BitVec 2) : (s.setSignal x).epswOf i = s.epswOf i := rfl
@[simp] theorem State.setSignal_psw (s : State) (x : Option Signal) : (s.setSignal x).psw = s.psw := rfl
@[simp] theorem State.setSignal_level (s : State) (x : Option Signal) : (s.setSignal x).level = s.level := rfl
@[simp] theorem State.setStopped_r (s : State) (b : Bool) (i : RegNum) : (s.setStopped b).r i = s.r i := rfl
@[simp] theorem State.setStopped_group (s : State) (b : Bool) (k : Nat) (i : RegNum) : (s.setStopped b).group k i = s.group k i := State.group_congr (s := s.setStopped b) (t := s) rfl k i
@[simp] theorem State.setStopped_er (s : State) (b : Bool) (i : RegNum) : (s.setStopped b).er i = s.er i := State.group_congr (s := s.setStopped b) (t := s) rfl 2 i
@[simp] theorem State.setStopped_elrOf (s : State) (b : Bool) (i : BitVec 2) : (s.setStopped b).elrOf i = s.elrOf i := rfl
@[simp] theorem State.setStopped_ecsrOf (s : State) (b : Bool) (i : BitVec 2) : (s.setStopped b).ecsrOf i = s.ecsrOf i := rfl
@[simp] theorem State.setStopped_epswOf (s : State) (b : Bool) (i : BitVec 2) : (s.setStopped b).epswOf i = s.epswOf i := rfl
@[simp] theorem State.setStopped_psw (s : State) (b : Bool) : (s.setStopped b).psw = s.psw := rfl
@[simp] theorem State.setStopped_level (s : State) (b : Bool) : (s.setStopped b).level = s.level := rfl
@[simp] theorem State.setMem_r (s : State) (m : Memory) (i : RegNum) : (s.setMem m).r i = s.r i := rfl
@[simp] theorem State.setMem_group (s : State) (m : Memory) (k : Nat) (i : RegNum) : (s.setMem m).group k i = s.group k i := State.group_congr (s := s.setMem m) (t := s) rfl k i
@[simp] theorem State.setMem_er (s : State) (m : Memory) (i : RegNum) : (s.setMem m).er i = s.er i := State.group_congr (s := s.setMem m) (t := s) rfl 2 i
@[simp] theorem State.setMem_elrOf (s : State) (m : Memory) (i : BitVec 2) : (s.setMem m).elrOf i = s.elrOf i := rfl
@[simp] theorem State.setMem_ecsrOf (s : State) (m : Memory) (i : BitVec 2) : (s.setMem m).ecsrOf i = s.ecsrOf i := rfl
@[simp] theorem State.setMem_epswOf (s : State) (m : Memory) (i : BitVec 2) : (s.setMem m).epswOf i = s.epswOf i := rfl
@[simp] theorem State.setMem_psw (s : State) (m : Memory) : (s.setMem m).psw = s.psw := rfl
@[simp] theorem State.setMem_level (s : State) (m : Memory) : (s.setMem m).level = s.level := rfl
@[simp] theorem State.setElr_r (s : State) (l : BitVec 2) (v : Word) (i : RegNum) : (s.setElr l v).r i = s.r i := rfl
@[simp] theorem State.setElr_group (s : State) (l : BitVec 2) (v : Word) (k : Nat) (i : RegNum) : (s.setElr l v).group k i = s.group k i := State.group_congr (s := s.setElr l v) (t := s) rfl k i
@[simp] theorem State.setElr_er (s : State) (l : BitVec 2) (v : Word) (i : RegNum) : (s.setElr l v).er i = s.er i := State.group_congr (s := s.setElr l v) (t := s) rfl 2 i
@[simp] theorem State.setElr_ecsrOf (s : State) (l : BitVec 2) (v : Word) (i : BitVec 2) : (s.setElr l v).ecsrOf i = s.ecsrOf i := rfl
@[simp] theorem State.setElr_epswOf (s : State) (l : BitVec 2) (v : Word) (i : BitVec 2) : (s.setElr l v).epswOf i = s.epswOf i := rfl
@[simp] theorem State.setElr_psw (s : State) (l : BitVec 2) (v : Word) : (s.setElr l v).psw = s.psw := rfl
@[simp] theorem State.setElr_level (s : State) (l : BitVec 2) (v : Word) : (s.setElr l v).level = s.level := rfl
@[simp] theorem State.setEcsr_r (s : State) (l : BitVec 2) (v : Byte) (i : RegNum) : (s.setEcsr l v).r i = s.r i := rfl
@[simp] theorem State.setEcsr_group (s : State) (l : BitVec 2) (v : Byte) (k : Nat) (i : RegNum) : (s.setEcsr l v).group k i = s.group k i := State.group_congr (s := s.setEcsr l v) (t := s) rfl k i
@[simp] theorem State.setEcsr_er (s : State) (l : BitVec 2) (v : Byte) (i : RegNum) : (s.setEcsr l v).er i = s.er i := State.group_congr (s := s.setEcsr l v) (t := s) rfl 2 i
@[simp] theorem State.setEcsr_elrOf (s : State) (l : BitVec 2) (v : Byte) (i : BitVec 2) : (s.setEcsr l v).elrOf i = s.elrOf i := rfl
@[simp] theorem State.setEcsr_epswOf (s : State) (l : BitVec 2) (v : Byte) (i : BitVec 2) : (s.setEcsr l v).epswOf i = s.epswOf i := rfl
@[simp] theorem State.setEcsr_psw (s : State) (l : BitVec 2) (v : Byte) : (s.setEcsr l v).psw = s.psw := rfl
@[simp] theorem State.setEcsr_level (s : State) (l : BitVec 2) (v : Byte) : (s.setEcsr l v).level = s.level := rfl
@[simp] theorem State.setEpsw_r (s : State) (l : BitVec 2) (v : Byte) (i : RegNum) : (s.setEpsw l v).r i = s.r i := rfl
@[simp] theorem State.setEpsw_group (s : State) (l : BitVec 2) (v : Byte) (k : Nat) (i : RegNum) : (s.setEpsw l v).group k i = s.group k i := State.group_congr (s := s.setEpsw l v) (t := s) rfl k i
@[simp] theorem State.setEpsw_er (s : State) (l : BitVec 2) (v : Byte) (i : RegNum) : (s.setEpsw l v).er i = s.er i := State.group_congr (s := s.setEpsw l v) (t := s) rfl 2 i
@[simp] theorem State.setEpsw_elrOf (s : State) (l : BitVec 2) (v : Byte) (i : BitVec 2) : (s.setEpsw l v).elrOf i = s.elrOf i := rfl
@[simp] theorem State.setEpsw_ecsrOf (s : State) (l : BitVec 2) (v : Byte) (i : BitVec 2) : (s.setEpsw l v).ecsrOf i = s.ecsrOf i := rfl
@[simp] theorem State.setPsw_r (s : State) (p : Byte) (i : RegNum) : (s.setPsw p).r i = s.r i := rfl
@[simp] theorem State.setPsw_group (s : State) (p : Byte) (k : Nat) (i : RegNum) : (s.setPsw p).group k i = s.group k i := State.group_congr (s := s.setPsw p) (t := s) rfl k i
@[simp] theorem State.setPsw_er (s : State) (p : Byte) (i : RegNum) : (s.setPsw p).er i = s.er i := State.group_congr (s := s.setPsw p) (t := s) rfl 2 i
@[simp] theorem State.setPsw_elrOf (s : State) (p : Byte) (i : BitVec 2) : (s.setPsw p).elrOf i = s.elrOf i := rfl
@[simp] theorem State.setPsw_ecsrOf (s : State) (p : Byte) (i : BitVec 2) : (s.setPsw p).ecsrOf i = s.ecsrOf i := rfl
@[simp] theorem State.setArith_r (s : State) (f : Flags) (i : RegNum) : (s.setArith f).r i = s.r i := rfl
@[simp] theorem State.setArith_group (s : State) (f : Flags) (k : Nat) (i : RegNum) : (s.setArith f).group k i = s.group k i := State.group_congr (s := s.setArith f) (t := s) rfl k i
@[simp] theorem State.setArith_er (s : State) (f : Flags) (i : RegNum) : (s.setArith f).er i = s.er i := State.group_congr (s := s.setArith f) (t := s) rfl 2 i
@[simp] theorem State.setArith_elrOf (s : State) (f : Flags) (i : BitVec 2) : (s.setArith f).elrOf i = s.elrOf i := rfl
@[simp] theorem State.setArith_ecsrOf (s : State) (f : Flags) (i : BitVec 2) : (s.setArith f).ecsrOf i = s.ecsrOf i := rfl
@[simp] theorem State.setZS_r (s : State) {w : Nat} (v : BitVec w) (i : RegNum) : (s.setZS v).r i = s.r i := rfl
@[simp] theorem State.setZS_group (s : State) {w : Nat} (v : BitVec w) (k : Nat) (i : RegNum) : (s.setZS v).group k i = s.group k i := State.group_congr (s := s.setZS v) (t := s) rfl k i
@[simp] theorem State.setZS_er (s : State) {w : Nat} (v : BitVec w) (i : RegNum) : (s.setZS v).er i = s.er i := State.group_congr (s := s.setZS v) (t := s) rfl 2 i
@[simp] theorem State.setZS_elrOf (s : State) {w : Nat} (v : BitVec w) (i : BitVec 2) : (s.setZS v).elrOf i = s.elrOf i := rfl
@[simp] theorem State.setZS_ecsrOf (s : State) {w : Nat} (v : BitVec w) (i : BitVec 2) : (s.setZS v).ecsrOf i = s.ecsrOf i := rfl
@[simp] theorem State.setC_r (s : State) (b : Bool) (i : RegNum) : (s.setC b).r i = s.r i := rfl
@[simp] theorem State.setC_group (s : State) (b : Bool) (k : Nat) (i : RegNum) : (s.setC b).group k i = s.group k i := State.group_congr (s := s.setC b) (t := s) rfl k i
@[simp] theorem State.setC_er (s : State) (b : Bool) (i : RegNum) : (s.setC b).er i = s.er i := State.group_congr (s := s.setC b) (t := s) rfl 2 i
@[simp] theorem State.setC_elrOf (s : State) (b : Bool) (i : BitVec 2) : (s.setC b).elrOf i = s.elrOf i := rfl
@[simp] theorem State.setC_ecsrOf (s : State) (b : Bool) (i : BitVec 2) : (s.setC b).ecsrOf i = s.ecsrOf i := rfl
@[simp] theorem State.setZ_r (s : State) (b : Bool) (i : RegNum) : (s.setZ b).r i = s.r i := rfl
@[simp] theorem State.setZ_group (s : State) (b : Bool) (k : Nat) (i : RegNum) : (s.setZ b).group k i = s.group k i := State.group_congr (s := s.setZ b) (t := s) rfl k i
@[simp] theorem State.setZ_er (s : State) (b : Bool) (i : RegNum) : (s.setZ b).er i = s.er i := State.group_congr (s := s.setZ b) (t := s) rfl 2 i
@[simp] theorem State.setZ_elrOf (s : State) (b : Bool) (i : BitVec 2) : (s.setZ b).elrOf i = s.elrOf i := rfl
@[simp] theorem State.setZ_ecsrOf (s : State) (b : Bool) (i : BitVec 2) : (s.setZ b).ecsrOf i = s.ecsrOf i := rfl
@[simp] theorem State.setMIE_r (s : State) (b : Bool) (i : RegNum) : (s.setMIE b).r i = s.r i := rfl
@[simp] theorem State.setMIE_group (s : State) (b : Bool) (k : Nat) (i : RegNum) : (s.setMIE b).group k i = s.group k i := State.group_congr (s := s.setMIE b) (t := s) rfl k i
@[simp] theorem State.setMIE_er (s : State) (b : Bool) (i : RegNum) : (s.setMIE b).er i = s.er i := State.group_congr (s := s.setMIE b) (t := s) rfl 2 i
@[simp] theorem State.setMIE_elrOf (s : State) (b : Bool) (i : BitVec 2) : (s.setMIE b).elrOf i = s.elrOf i := rfl
@[simp] theorem State.setMIE_ecsrOf (s : State) (b : Bool) (i : BitVec 2) : (s.setMIE b).ecsrOf i = s.ecsrOf i := rfl
@[simp] theorem State.setLink_r (s : State) (lr : Word) (c : Byte) (i : RegNum) : (s.setLink lr c).r i = s.r i := rfl
@[simp] theorem State.setLink_group (s : State) (lr : Word) (c : Byte) (k : Nat) (i : RegNum) : (s.setLink lr c).group k i = s.group k i := State.group_congr (s := s.setLink lr c) (t := s) rfl k i
@[simp] theorem State.setLink_er (s : State) (lr : Word) (c : Byte) (i : RegNum) : (s.setLink lr c).er i = s.er i := State.group_congr (s := s.setLink lr c) (t := s) rfl 2 i
@[simp] theorem State.setLink_epswOf (s : State) (lr : Word) (c : Byte) (i : BitVec 2) : (s.setLink lr c).epswOf i = s.epswOf i := rfl
@[simp] theorem State.setLink_psw (s : State) (lr : Word) (c : Byte) : (s.setLink lr c).psw = s.psw := rfl
@[simp] theorem State.setLink_level (s : State) (lr : Word) (c : Byte) : (s.setLink lr c).level = s.level := rfl

/-- Register numbers are equal when their numbers are. -/
theorem regNum_toNat_inj {n m : RegNum} : n.toNat = m.toNat ↔ n = m := BitVec.toNat_inj

/-- Reading a register after a register write. -/
theorem State.setR_r (s : State) (n : RegNum) (v : Byte) (i : RegNum) :
    (s.setR n v).r i = if n = i then v else s.r i := by
  simp only [State.r, State.setR, Vector.getElem_set, regNum_toNat_inj]

@[simp] theorem State.setR_r_self (s : State) (n : RegNum) (v : Byte) : (s.setR n v).r n = v := by
  simp [State.setR_r]

theorem State.setR_r_ne (s : State) {n i : RegNum} (v : Byte) (h : n ≠ i) : (s.setR n v).r i = s.r i := by
  simp [State.setR_r, h]

/-- Reading a bank cell after a write of one: ELR. -/
theorem State.setElr_elrOf (s : State) (l : BitVec 2) (v : Word) (i : BitVec 2) :
    (s.setElr l v).elrOf i = if l = i then v else s.elrOf i := by
  simp only [State.elrOf, State.setElr, Vector.getElem_set, BitVec.toNat_inj]

/-- Reading a bank cell after a write of one: ECSR. -/
theorem State.setEcsr_ecsrOf (s : State) (l : BitVec 2) (v : Byte) (i : BitVec 2) :
    (s.setEcsr l v).ecsrOf i = if l = i then v else s.ecsrOf i := by
  simp only [State.ecsrOf, State.setEcsr, Vector.getElem_set, BitVec.toNat_inj]

/-- Reading a bank cell after a write of one: EPSW. -/
theorem State.setEpsw_epswOf (s : State) (l : BitVec 2) (v : Byte) (i : BitVec 2) :
    (s.setEpsw l v).epswOf i = if l = i then v else s.epswOf i := by
  simp only [State.epswOf, State.setEpsw, Vector.getElem_set, BitVec.toNat_inj]

/-- Reading a bank cell after a write of PSW. -/
theorem State.setPsw_epswOf (s : State) (p : Byte) (i : BitVec 2) :
    (s.setPsw p).epswOf i = if 0 = i then p else s.epswOf i := State.setEpsw_epswOf s 0 p i

@[simp] theorem State.setPsw_psw (s : State) (p : Byte) : (s.setPsw p).psw = p := by
  simp [State.psw, State.setPsw_epswOf]

@[simp] theorem State.setArith_psw (s : State) (f : Flags) : (s.setArith f).psw = withArith s.psw f := by simp [State.setArith]
@[simp] theorem State.setZS_psw (s : State) {w : Nat} (v : BitVec w) : (s.setZS v).psw = withZS s.psw v := by simp [State.setZS]
@[simp] theorem State.setC_psw (s : State) (b : Bool) : (s.setC b).psw = withC s.psw b := by simp [State.setC]
@[simp] theorem State.setZ_psw (s : State) (b : Bool) : (s.setZ b).psw = withZ s.psw b := by simp [State.setZ]
@[simp] theorem State.setMIE_psw (s : State) (b : Bool) : (s.setMIE b).psw = withMIE s.psw b := by simp [State.setMIE]

/-! ## Writing a register group -/

/-- Writing a register group changes the register cells alone. -/
theorem State.setGroup_eq (s : State) : ∀ (k : Nat) (n : RegNum) (v : BitVec (8 * k)),
    s.setGroup k n v = { s with regs := (s.setGroup k n v).regs }
  | 0, _, _ => rfl
  | k + 1, n, v => by
    simp only [State.setGroup]
    exact (State.setGroup_eq (s.setR n (v.extractLsb' 0 8)) k (n + 1) (v.extractLsb' 8 (8 * k))).trans rfl

@[simp] theorem State.setGroup_pc (s : State) (k : Nat) (n : RegNum) (v : BitVec (8 * k)) : (s.setGroup k n v).pc = s.pc := by rw [State.setGroup_eq]
@[simp] theorem State.setGroup_csr (s : State) (k : Nat) (n : RegNum) (v : BitVec (8 * k)) : (s.setGroup k n v).csr = s.csr := by rw [State.setGroup_eq]
@[simp] theorem State.setGroup_sp (s : State) (k : Nat) (n : RegNum) (v : BitVec (8 * k)) : (s.setGroup k n v).sp = s.sp := by rw [State.setGroup_eq]
@[simp] theorem State.setGroup_ea (s : State) (k : Nat) (n : RegNum) (v : BitVec (8 * k)) : (s.setGroup k n v).ea = s.ea := by rw [State.setGroup_eq]
@[simp] theorem State.setGroup_dsr (s : State) (k : Nat) (n : RegNum) (v : BitVec (8 * k)) : (s.setGroup k n v).dsr = s.dsr := by rw [State.setGroup_eq]
@[simp] theorem State.setGroup_cs (s : State) (k : Nat) (n : RegNum) (v : BitVec (8 * k)) : (s.setGroup k n v).cs = s.cs := by rw [State.setGroup_eq]
@[simp] theorem State.setGroup_elr (s : State) (k : Nat) (n : RegNum) (v : BitVec (8 * k)) : (s.setGroup k n v).elr = s.elr := by rw [State.setGroup_eq]
@[simp] theorem State.setGroup_ecsr (s : State) (k : Nat) (n : RegNum) (v : BitVec (8 * k)) : (s.setGroup k n v).ecsr = s.ecsr := by rw [State.setGroup_eq]
@[simp] theorem State.setGroup_epsw (s : State) (k : Nat) (n : RegNum) (v : BitVec (8 * k)) : (s.setGroup k n v).epsw = s.epsw := by rw [State.setGroup_eq]
@[simp] theorem State.setGroup_seg (s : State) (k : Nat) (n : RegNum) (v : BitVec (8 * k)) : (s.setGroup k n v).seg = s.seg := by rw [State.setGroup_eq]
@[simp] theorem State.setGroup_signal (s : State) (k : Nat) (n : RegNum) (v : BitVec (8 * k)) : (s.setGroup k n v).signal = s.signal := by rw [State.setGroup_eq]
@[simp] theorem State.setGroup_stopped (s : State) (k : Nat) (n : RegNum) (v : BitVec (8 * k)) : (s.setGroup k n v).stopped = s.stopped := by rw [State.setGroup_eq]
@[simp] theorem State.setGroup_mem (s : State) (k : Nat) (n : RegNum) (v : BitVec (8 * k)) : (s.setGroup k n v).mem = s.mem := by rw [State.setGroup_eq]
@[simp] theorem State.setGroup_elrOf (s : State) (k : Nat) (n : RegNum) (v : BitVec (8 * k)) (i : BitVec 2) : (s.setGroup k n v).elrOf i = s.elrOf i := by rw [State.setGroup_eq]; rfl
@[simp] theorem State.setGroup_ecsrOf (s : State) (k : Nat) (n : RegNum) (v : BitVec (8 * k)) (i : BitVec 2) : (s.setGroup k n v).ecsrOf i = s.ecsrOf i := by rw [State.setGroup_eq]; rfl
@[simp] theorem State.setGroup_epswOf (s : State) (k : Nat) (n : RegNum) (v : BitVec (8 * k)) (i : BitVec 2) : (s.setGroup k n v).epswOf i = s.epswOf i := by rw [State.setGroup_eq]; rfl
@[simp] theorem State.setGroup_psw (s : State) (k : Nat) (n : RegNum) (v : BitVec (8 * k)) : (s.setGroup k n v).psw = s.psw := by rw [State.setGroup_eq]; rfl
@[simp] theorem State.setEr_pc (s : State) (n : RegNum) (v : Word) : (s.setEr n v).pc = s.pc := State.setGroup_pc s 2 n v
@[simp] theorem State.setEr_csr (s : State) (n : RegNum) (v : Word) : (s.setEr n v).csr = s.csr := State.setGroup_csr s 2 n v
@[simp] theorem State.setEr_sp (s : State) (n : RegNum) (v : Word) : (s.setEr n v).sp = s.sp := State.setGroup_sp s 2 n v
@[simp] theorem State.setEr_ea (s : State) (n : RegNum) (v : Word) : (s.setEr n v).ea = s.ea := State.setGroup_ea s 2 n v
@[simp] theorem State.setEr_dsr (s : State) (n : RegNum) (v : Word) : (s.setEr n v).dsr = s.dsr := State.setGroup_dsr s 2 n v
@[simp] theorem State.setEr_cs (s : State) (n : RegNum) (v : Word) : (s.setEr n v).cs = s.cs := State.setGroup_cs s 2 n v
@[simp] theorem State.setEr_elr (s : State) (n : RegNum) (v : Word) : (s.setEr n v).elr = s.elr := State.setGroup_elr s 2 n v
@[simp] theorem State.setEr_ecsr (s : State) (n : RegNum) (v : Word) : (s.setEr n v).ecsr = s.ecsr := State.setGroup_ecsr s 2 n v
@[simp] theorem State.setEr_epsw (s : State) (n : RegNum) (v : Word) : (s.setEr n v).epsw = s.epsw := State.setGroup_epsw s 2 n v
@[simp] theorem State.setEr_seg (s : State) (n : RegNum) (v : Word) : (s.setEr n v).seg = s.seg := State.setGroup_seg s 2 n v
@[simp] theorem State.setEr_signal (s : State) (n : RegNum) (v : Word) : (s.setEr n v).signal = s.signal := State.setGroup_signal s 2 n v
@[simp] theorem State.setEr_stopped (s : State) (n : RegNum) (v : Word) : (s.setEr n v).stopped = s.stopped := State.setGroup_stopped s 2 n v
@[simp] theorem State.setEr_mem (s : State) (n : RegNum) (v : Word) : (s.setEr n v).mem = s.mem := State.setGroup_mem s 2 n v
@[simp] theorem State.setEr_psw (s : State) (n : RegNum) (v : Word) : (s.setEr n v).psw = s.psw := State.setGroup_psw s 2 n v

/-! ## LR and LCSR (10_state.md R43): only the bank updates change them -/

@[simp] theorem State.setR_lr (s : State) (n : RegNum) (v : Byte) : (s.setR n v).lr = s.lr := rfl
@[simp] theorem State.setR_lcsr (s : State) (n : RegNum) (v : Byte) : (s.setR n v).lcsr = s.lcsr := rfl
@[simp] theorem State.setPc_lr (s : State) (v : Word) : (s.setPc v).lr = s.lr := rfl
@[simp] theorem State.setPc_lcsr (s : State) (v : Word) : (s.setPc v).lcsr = s.lcsr := rfl
@[simp] theorem State.setCsr_lr (s : State) (v : Byte) : (s.setCsr v).lr = s.lr := rfl
@[simp] theorem State.setCsr_lcsr (s : State) (v : Byte) : (s.setCsr v).lcsr = s.lcsr := rfl
@[simp] theorem State.setSp_lr (s : State) (v : Word) : (s.setSp v).lr = s.lr := rfl
@[simp] theorem State.setSp_lcsr (s : State) (v : Word) : (s.setSp v).lcsr = s.lcsr := rfl
@[simp] theorem State.setEa_lr (s : State) (v : Word) : (s.setEa v).lr = s.lr := rfl
@[simp] theorem State.setEa_lcsr (s : State) (v : Word) : (s.setEa v).lcsr = s.lcsr := rfl
@[simp] theorem State.setDsr_lr (s : State) (v : Byte) : (s.setDsr v).lr = s.lr := rfl
@[simp] theorem State.setDsr_lcsr (s : State) (v : Byte) : (s.setDsr v).lcsr = s.lcsr := rfl
@[simp] theorem State.setCs_lr (s : State) (b : Bool) : (s.setCs b).lr = s.lr := rfl
@[simp] theorem State.setCs_lcsr (s : State) (b : Bool) : (s.setCs b).lcsr = s.lcsr := rfl
@[simp] theorem State.setSeg_lr (s : State) (v : Byte) : (s.setSeg v).lr = s.lr := rfl
@[simp] theorem State.setSeg_lcsr (s : State) (v : Byte) : (s.setSeg v).lcsr = s.lcsr := rfl
@[simp] theorem State.setSignal_lr (s : State) (x : Option Signal) : (s.setSignal x).lr = s.lr := rfl
@[simp] theorem State.setSignal_lcsr (s : State) (x : Option Signal) : (s.setSignal x).lcsr = s.lcsr := rfl
@[simp] theorem State.setStopped_lr (s : State) (b : Bool) : (s.setStopped b).lr = s.lr := rfl
@[simp] theorem State.setStopped_lcsr (s : State) (b : Bool) : (s.setStopped b).lcsr = s.lcsr := rfl
@[simp] theorem State.setMem_lr (s : State) (m : Memory) : (s.setMem m).lr = s.lr := rfl
@[simp] theorem State.setMem_lcsr (s : State) (m : Memory) : (s.setMem m).lcsr = s.lcsr := rfl
@[simp] theorem State.setPsw_lr (s : State) (p : Byte) : (s.setPsw p).lr = s.lr := rfl
@[simp] theorem State.setPsw_lcsr (s : State) (p : Byte) : (s.setPsw p).lcsr = s.lcsr := rfl
@[simp] theorem State.setLink_lr (s : State) (lr : Word) (c : Byte) : (s.setLink lr c).lr = lr := by
  simp [State.lr, State.setLink, State.setElr_elrOf]
@[simp] theorem State.setLink_lcsr (s : State) (lr : Word) (c : Byte) : (s.setLink lr c).lcsr = c := by
  simp [State.lcsr, State.setLink, State.setEcsr_ecsrOf]
@[simp] theorem State.setGroup_lr (s : State) (k : Nat) (n : RegNum) (v : BitVec (8 * k)) : (s.setGroup k n v).lr = s.lr :=
  State.setGroup_elrOf s k n v 0
@[simp] theorem State.setGroup_lcsr (s : State) (k : Nat) (n : RegNum) (v : BitVec (8 * k)) : (s.setGroup k n v).lcsr = s.lcsr :=
  State.setGroup_ecsrOf s k n v 0

/-- The cell `n + j` of a group counted from cell `n + 1`. -/
theorem regNum_add_succ (n : RegNum) (j : Nat) : n + BitVec.ofNat 4 (j + 1) = n + 1 + BitVec.ofNat 4 j := by
  apply BitVec.eq_of_toNat_eq
  have h1 : (1 : RegNum).toNat = 1 := rfl
  simp only [BitVec.toNat_add, BitVec.toNat_ofNat, h1]
  omega

/-- Byte `j` of a register group is cell `n + j` (10_state.md R22). -/
theorem State.group_byte (s : State) : ∀ (k : Nat) (n : RegNum) (j : Nat), j < k →
    (s.group k n).extractLsb' (8 * j) 8 = s.r (n + BitVec.ofNat 4 j)
  | k + 1, n, 0, _ => by
    apply BitVec.eq_of_getLsbD_eq
    intro i hi
    simp [State.group, BitVec.getLsbD_append, hi]
  | k + 1, n, j + 1, h => by
    have ih := State.group_byte s k (n + 1) j (by omega)
    rw [regNum_add_succ, ← ih]
    apply BitVec.eq_of_getLsbD_eq
    intro i hi
    have h1 : ¬ (8 * (j + 1) + i < 8) := by omega
    have h2 : 8 * (j + 1) + i - 8 = 8 * j + i := by omega
    simp [State.group, BitVec.getLsbD_append, hi, h1, h2]

/-- Cells outside a group keep their value when it is written. -/
theorem State.setGroup_r_outside : ∀ (k : Nat) (s : State) (n : RegNum) (v : BitVec (8 * k)) (i : RegNum),
    (∀ j < k, n + BitVec.ofNat 4 j ≠ i) → (s.setGroup k n v).r i = s.r i
  | 0, _, _, _, _, _ => rfl
  | k + 1, s, n, v, i, h => by
    simp only [State.setGroup]
    have h0 : n ≠ i := by simpa using h 0 (by omega)
    rw [State.setGroup_r_outside k _ (n + 1) _ i (fun j hj => by rw [← regNum_add_succ]; exact h (j + 1) (by omega)),
      State.setR_r_ne _ _ h0]

/-- Cell `n + j` of a written group holds byte `j` of the value, for groups of at most 16 cells. -/
theorem State.setGroup_r_inside : ∀ (k : Nat) (s : State) (n : RegNum) (v : BitVec (8 * k)) (j : Nat), k ≤ 16 → j < k →
    (s.setGroup k n v).r (n + BitVec.ofNat 4 j) = v.extractLsb' (8 * j) 8
  | k + 1, s, n, v, 0, hk, _ => by
    simp only [State.setGroup]
    rw [State.setGroup_r_outside]
    · have : n + BitVec.ofNat 4 0 = n := by simp
      rw [this, State.setR_r_self]
    · intro j hj heq
      have := congrArg BitVec.toNat heq
      simp only [BitVec.toNat_add, BitVec.toNat_ofNat] at this
      have h1 : (1 : RegNum).toNat = 1 := rfl
      omega
  | k + 1, s, n, v, j + 1, hk, hj => by
    simp only [State.setGroup]
    rw [regNum_add_succ, State.setGroup_r_inside k _ (n + 1) _ j (by omega) (by omega)]
    apply BitVec.eq_of_getLsbD_eq
    intro i hi
    have h2 : 8 * (j + 1) + i = 8 + (8 * j + i) := by omega
    have h3 : 8 * j + i < 8 * k := by omega
    simp [hi, h2, h3]

/-- A pair is its two cells, the higher register in the high byte (10_state.md R22). -/
theorem State.er_eq (s : State) (n : RegNum) : s.er n = s.r (n + 1) ++ s.r n := by
  apply BitVec.eq_of_getLsbD_eq
  intro i hi
  simp only [State.er, State.group, BitVec.getLsbD_append]
  by_cases h : i < 8
  · simp [h]
  · have : i - 8 < 8 := by omega
    simp [h, this]

/-- Writing a pair writes its two cells (10_state.md R22). -/
theorem State.setEr_eq (s : State) (n : RegNum) (v : Word) :
    s.setEr n v = (s.setR n (v.extractLsb' 0 8)).setR (n + 1) (v.extractLsb' 8 8) := by
  have h : BitVec.extractLsb' 0 8 (BitVec.extractLsb' 8 (8 * 1) v) = v.extractLsb' 8 8 := by
    apply BitVec.eq_of_getLsbD_eq
    intro i hi
    simp [hi]
  show ((s.setR n (v.extractLsb' 0 8)).setR (n + 1) (BitVec.extractLsb' 0 8 (BitVec.extractLsb' 8 (8 * 1) v))) = _
  rw [h]

/-- Two states with the same fields are the same. -/
theorem State.ext_fields {s t : State} (h1 : s.regs = t.regs) (h2 : s.pc = t.pc) (h3 : s.csr = t.csr) (h4 : s.sp = t.sp)
    (h5 : s.ea = t.ea) (h6 : s.dsr = t.dsr) (h7 : s.cs = t.cs) (h8 : s.elr = t.elr) (h9 : s.ecsr = t.ecsr)
    (h10 : s.epsw = t.epsw) (h11 : s.seg = t.seg) (h12 : s.signal = t.signal) (h13 : s.stopped = t.stopped)
    (h14 : s.mem = t.mem) : s = t := by
  cases s; cases t; simp_all

end Sys2Proof.Machine
end

