-- ==== Sys2Proof/Laws/Access.lean ====
section
/-! SUPPORT. What a data access, a stack access and the placing of bytes can do, said once for each shared operation. -/

namespace Sys2Proof.Machine

/-! ## One byte -/

theorem readByte_eq_ok {m : Memory} {a : Address} {b : Byte} :
    readByte m a = .ok b ↔ ∃ k, physical a = some k ∧ b = Memory.read m k := by
  unfold readByte
  cases physical a <;> simp [eq_comm]

theorem writeByte_eq_ok {m m' : Memory} {a : Address} {b : Byte} :
    writeByte m a b = .ok m' ↔ ∃ k, physical a = some k ∧ m' = Memory.write m k b := by
  unfold writeByte
  cases physical a <;> simp [eq_comm]

/-! ## `DataRead` -/

/-- What `DataRead` can do: it answers exactly the value whose byte `j` is the one at the place of offset `off + j`
(20_memory.md R66). -/
theorem dataRead_byte {m : Memory} {seg : Byte} : ∀ {k : Nat} {off : Word} {v : BitVec (8 * k)}, dataRead m seg k off = .ok v →
    ∀ j < k, ∃ p, placeOf seg off j = some p ∧ v.extractLsb' (8 * j) 8 = Memory.read m p
  | k + 1, off, v, h, j, hj => by
    simp only [dataRead, bind, Except.bind] at h
    split at h
    · cases h
    · rename_i b hb
      split at h
      · cases h
      · rename_i rest hr
        injection h with h
        subst h
        obtain ⟨p, hp, rfl⟩ := readByte_eq_ok.1 hb
        cases j with
        | zero =>
          refine ⟨p, by rw [placeOf_zero]; exact hp, ?_⟩
          apply BitVec.eq_of_getLsbD_eq
          intro i hi
          simp [BitVec.getLsbD_append, hi]
        | succ j =>
          obtain ⟨q, hq, hv⟩ := dataRead_byte hr j (by omega)
          refine ⟨q, by rw [placeOf_succ]; exact hq, ?_⟩
          rw [← hv]
          apply BitVec.eq_of_getLsbD_eq
          intro i hi
          have h1 : ¬ (8 * (j + 1) + i < 8) := by omega
          have h2 : 8 * (j + 1) + i - 8 = 8 * j + i := by omega
          simp [BitVec.getLsbD_append, hi, h1, h2]

/-- `DataRead` in a segment that answers gives a value. -/
theorem dataRead_ok (m : Memory) {seg : Byte} (h : segmentAnswers seg) : ∀ (k : Nat) (off : Word),
    ∃ v, dataRead m seg k off = .ok v
  | 0, _ => ⟨_, rfl⟩
  | k + 1, off => by
    obtain ⟨p, hp⟩ := physical_of_answers h off
    obtain ⟨v, hv⟩ := dataRead_ok m h k (off + 1)
    refine ⟨v ++ Memory.read m p, ?_⟩
    simp only [dataRead, bind, Except.bind, readByte_eq_ok.2 ⟨p, hp, rfl⟩, hv]

/-- `DataRead` that answers reads a segment that answers. -/
theorem answers_of_dataRead {m : Memory} {seg : Byte} {k : Nat} {off : Word} {v : BitVec (8 * (k + 1))}
    (h : dataRead m seg (k + 1) off = .ok v) : segmentAnswers seg := by
  obtain ⟨p, hp, -⟩ := dataRead_byte h 0 (by omega)
  rw [placeOf_zero] at hp
  exact answers_of_physical hp

/-- `DataRead` in a segment that does not answer is refused at its first byte. -/
theorem dataRead_refused (m : Memory) {seg : Byte} (h : ¬ segmentAnswers seg) (k : Nat) (off : Word) :
    dataRead m seg (k + 1) off = .error (.memoryRefused (address seg off)) := by
  have : physical (address seg off) = none := by
    cases e : physical (address seg off) with
    | none => rfl
    | some k => exact absurd (answers_of_physical e) h
  simp only [dataRead, readByte, this, bind, Except.bind]

/-- A two-byte read in segment 0 always answers the word there, low byte first (20_memory.md R65, R66). -/
theorem dataRead_segment0 (m : Memory) (off : Word) : dataRead m 0 2 off = .ok (slotWord m off) := by
  simp only [dataRead, readByte, physical_segment0, bind, Except.bind, slotWord]
  congr 1
  apply BitVec.eq_of_getLsbD_eq
  intro i hi
  simp only [BitVec.getLsbD_append]
  by_cases h8 : i < 8
  · simp [h8]
  · have : i - 8 < 8 := by omega
    simp [h8, this]

/-! ## `DataWrite`, upwards and downwards -/

/-- What storing the bytes of a value can do to the memory (20_memory.md R67): canonical form and key space are kept,
every place that holds no byte of the access keeps its byte, and the others hold the bytes of the value. -/
structure Stored (m : Memory) (seg : Byte) (off : Word) (k : Nat) (v : BitVec (8 * k)) (m' : Memory) : Prop where
  wf : Memory.wf m = true → Memory.wf m' = true
  inSpace : Memory.inSpace m = true → Memory.inSpace m' = true
  outside : ∀ a, ¬ holdsByteOf seg off k a → Memory.read m' a = Memory.read m a
  inside : Memory.wf m = true → ∀ j < k, ∀ p, placeOf seg off j = some p → Memory.read m' p = v.extractLsb' (8 * j) 8

theorem dataWrite_stored {m' : Memory} {seg : Byte} : ∀ {k : Nat} {m : Memory} {off : Word} {v : BitVec (8 * k)}, k ≤ 0x10000 →
    dataWrite m seg k off v = .ok m' → Stored m seg off k v m'
  | 0, m, off, v, _, h => by
    simp only [dataWrite] at h
    injection h with h
    subst h
    exact ⟨id, id, fun _ _ => rfl, fun _ j hj => absurd hj (by omega)⟩
  | k + 1, m, off, v, hk, h => by
    simp only [dataWrite, bind, Except.bind] at h
    split at h
    · cases h
    · rename_i m1 h1
      obtain ⟨p, hp, rfl⟩ := writeByte_eq_ok.1 h1
      have ih := dataWrite_stored (by omega) h
      have hsize := physical_lt_size hp
      refine ⟨fun w => ih.wf (Memory.wf_write w), fun w => ih.inSpace (Memory.inSpace_write w hsize), fun a ha => ?_,
        fun w j hj q hq => ?_⟩
      · rw [ih.outside, Memory.read_write_ne]
        · rintro rfl
          exact ha ⟨0, by omega, by rw [placeOf_zero]; exact hp⟩
        · rintro ⟨j, hj, e⟩
          exact ha ⟨j + 1, by omega, by rw [placeOf_succ]; exact e⟩
      · cases j with
        | zero =>
          have e : q = p := by
            rw [placeOf_zero, hp] at hq; injection hq with hq; exact hq.symm
          subst e
          rw [ih.outside, Memory.read_write w, if_pos rfl]
          rintro ⟨i, hi, e⟩
          rw [← placeOf_succ] at e
          rw [← placeOf_zero] at hp
          have := placeOf_inj (by omega) (by omega) hp e
          omega
        | succ j =>
          rw [placeOf_succ] at hq
          rw [ih.inside (Memory.wf_write w) j (by omega) q hq]
          apply BitVec.eq_of_getLsbD_eq
          intro i hi
          have h2 : 8 * (j + 1) + i = 8 + (8 * j + i) := by omega
          have h3 : 8 * j + i < 8 * k := by omega
          simp [hi, h2, h3]

theorem dataWriteDown_stored {m' : Memory} {seg : Byte} {off : Word} : ∀ {k : Nat} {m : Memory} {v : BitVec (8 * k)}, k ≤ 0x10000 →
    dataWriteDown m seg off k v = .ok m' → Stored m seg off k v m'
  | 0, m, v, _, h => by
    simp only [dataWriteDown] at h
    injection h with h
    subst h
    exact ⟨id, id, fun _ _ => rfl, fun _ j hj => absurd hj (by omega)⟩
  | k + 1, m, v, hk, h => by
    simp only [dataWriteDown, bind, Except.bind] at h
    split at h
    · cases h
    · rename_i m1 h1
      obtain ⟨p, hp, rfl⟩ := writeByte_eq_ok.1 h1
      have ih := dataWriteDown_stored (by omega) h
      have hsize := physical_lt_size hp
      refine ⟨fun w => ih.wf (Memory.wf_write w), fun w => ih.inSpace (Memory.inSpace_write w hsize), fun a ha => ?_,
        fun w j hj q hq => ?_⟩
      · rw [ih.outside, Memory.read_write_ne]
        · rintro rfl
          exact ha ⟨k, by omega, hp⟩
        · rintro ⟨j, hj, e⟩
          exact ha ⟨j, by omega, e⟩
      · by_cases e : j = k
        · subst e
          have e : q = p := by
            simp only [placeOf, hp] at hq; injection hq with hq; exact hq.symm
          subst e
          rw [ih.outside, Memory.read_write w, if_pos rfl]
          rintro ⟨i, hi, e⟩
          have := placeOf_inj (by omega) (by omega) hq e
          omega
        · rw [ih.inside (Memory.wf_write w) j (by omega) q hq]
          apply BitVec.eq_of_getLsbD_eq
          intro i hi
          have h3 : 8 * j + i < 8 * k := by omega
          simp [hi, h3]

/-- `DataWrite` in a segment that answers gives a memory. -/
theorem dataWrite_ok {seg : Byte} (h : segmentAnswers seg) : ∀ (k : Nat) (m : Memory) (off : Word) (v : BitVec (8 * k)),
    ∃ m', dataWrite m seg k off v = .ok m'
  | 0, m, _, _ => ⟨m, rfl⟩
  | k + 1, m, off, v => by
    obtain ⟨p, hp⟩ := physical_of_answers h off
    simp only [dataWrite, bind, Except.bind, writeByte_eq_ok.2 ⟨p, hp, rfl⟩]
    exact dataWrite_ok h k _ _ _

theorem dataWriteDown_ok {seg : Byte} (h : segmentAnswers seg) (off : Word) : ∀ (k : Nat) (m : Memory) (v : BitVec (8 * k)),
    ∃ m', dataWriteDown m seg off k v = .ok m'
  | 0, m, _ => ⟨m, rfl⟩
  | k + 1, m, v => by
    obtain ⟨p, hp⟩ := physical_of_answers h (off + BitVec.ofNat 16 k)
    simp only [dataWriteDown, bind, Except.bind, writeByte_eq_ok.2 ⟨p, hp, rfl⟩]
    exact dataWriteDown_ok h off k _ _

/-- `DataWrite` in a segment that does not answer is refused at its first byte. -/
theorem dataWrite_refused (m : Memory) {seg : Byte} (h : ¬ segmentAnswers seg) (k : Nat) (off : Word) (v : BitVec (8 * (k + 1))) :
    dataWrite m seg (k + 1) off v = .error (.memoryRefused (address seg off)) := by
  have : physical (address seg off) = none := by
    cases e : physical (address seg off) with
    | none => rfl
    | some k => exact absurd (answers_of_physical e) h
  simp only [dataWrite, writeByte, this, bind, Except.bind]

/-- What has been stored is read back. -/
theorem dataRead_stored {m m' : Memory} {seg : Byte} (ha : segmentAnswers seg) (hw : Memory.wf m = true) {k : Nat} {off : Word}
    {v : BitVec (8 * k)} (h : Stored m seg off k v m') : dataRead m' seg k off = .ok v := by
  obtain ⟨v', hv⟩ := dataRead_ok m' ha k off
  rw [hv]
  congr 1
  apply BitVec.eq_of_getLsbD_eq
  intro i hi
  obtain ⟨p, hp, e⟩ := dataRead_byte hv (i / 8) (by omega)
  rw [h.inside hw (i / 8) (by omega) p hp] at e
  have := congrArg (fun x => BitVec.getLsbD x (i % 8)) e
  have h8 : i % 8 < 8 := by omega
  have e8 : 8 * (i / 8) + i % 8 = i := by omega
  have hi' : 8 * (i / 8) + i % 8 < 8 * k := by omega
  simpa [h8, e8] using this

/-- A read of bytes none of which has been stored to is unchanged. -/
theorem dataRead_congr {m m' : Memory} {seg : Byte} : ∀ {k : Nat} {off : Word},
    (∀ j < k, ∀ p, placeOf seg off j = some p → Memory.read m' p = Memory.read m p) → dataRead m' seg k off = dataRead m seg k off
  | 0, _, _ => rfl
  | k + 1, off, h => by
    have e : readByte m' (address seg off) = readByte m (address seg off) := by
      unfold readByte
      cases e : physical (address seg off) with
      | none => rfl
      | some p => simp only [h 0 (by omega) p (by rw [placeOf_zero]; exact e)]
    simp only [dataRead, e]
    rw [dataRead_congr fun j hj p hp => h (j + 1) (by omega) p (by rw [placeOf_succ]; exact hp)]

/-! ## Placing bytes -/

theorem placeBytes_wf {seg : Byte} : ∀ {bs : List Byte} {m : Memory} {off : Word}, Memory.wf m = true →
    Memory.wf (placeBytes m seg off bs) = true
  | [], _, _, h => h
  | b :: bs, m, off, h => by
    simp only [placeBytes]
    split
    · exact placeBytes_wf (Memory.wf_write h)
    · exact placeBytes_wf h

theorem placeBytes_inSpace {seg : Byte} : ∀ {bs : List Byte} {m : Memory} {off : Word}, Memory.inSpace m = true →
    Memory.inSpace (placeBytes m seg off bs) = true
  | [], _, _, h => h
  | b :: bs, m, off, h => by
    simp only [placeBytes]
    split
    · rename_i k hk
      exact placeBytes_inSpace (Memory.inSpace_write h (physical_lt_size hk))
    · exact placeBytes_inSpace h

/-- `State.reset`'s memory is in canonical form and inside the key space. -/
theorem reset_mem_wf : Memory.wf State.reset.mem = true ∧ Memory.inSpace State.reset.mem = true := ⟨rfl, rfl⟩

/-! ## Outcomes -/

theorem finish_eq_next {x : Except Refusal State} {t : State} : finish x = .next t ↔ x = .ok t := by
  cases x <;> simp [finish]

theorem finish_ok (t : State) : finish (.ok t) = .next t := rfl

theorem finish_ne_fault (x : Except Refusal State) (f : Fault) : finish x ≠ .fault f := by
  cases x <;> simp [finish]

/-! ## The stack -/

/-- What `push16` does: it never stops, SP falls by 2, the word stands little-endian at the new SP of segment 0 (43_stack.md
R230). -/
theorem push16_spec (v : Word) (s : State) : ∃ m, push16 v s = .ok ((s.setSp (s.sp - 2)).setMem m) ∧
    Stored s.mem 0 (s.sp - 2) 2 v m := by
  obtain ⟨m, hm⟩ := dataWrite_ok segmentAnswers_zero 2 s.mem (s.sp - 2) v
  refine ⟨m, ?_, dataWrite_stored (by omega) hm⟩
  simp only [push16, bind, Except.bind, hm]

/-- What `pop16` does: it never stops, it reads the word at SP of segment 0, SP rises by 2 (43_stack.md R230). -/
theorem pop16_spec (s : State) : ∃ v, dataRead s.mem 0 2 s.sp = .ok v ∧ pop16 s = .ok (v, s.setSp (s.sp + 2)) := by
  obtain ⟨v, hv⟩ := dataRead_ok s.mem segmentAnswers_zero 2 s.sp
  exact ⟨v, hv, by simp only [pop16, bind, Except.bind, hv]⟩

/-- What PUSH of a register group does (43_stack.md R230 to R234). -/
theorem pushGroup_spec {k : Nat} (hk : k ≤ 16) (n : RegNum) (s : State) :
    ∃ m, pushGroup k n s = .ok ((s.setSp (s.sp - stackBytes k)).setMem m) ∧ Stored s.mem 0 (s.sp - stackBytes k) k (s.group k n) m := by
  obtain ⟨m, hm⟩ := dataWriteDown_ok segmentAnswers_zero (s.sp - stackBytes k) k s.mem (s.group k n)
  refine ⟨m, ?_, dataWriteDown_stored (by omega) hm⟩
  simp only [pushGroup, bind, Except.bind, hm]

/-- What POP of a register group does (43_stack.md R236 to R239). -/
theorem popGroup_spec (k : Nat) (n : RegNum) (s : State) :
    ∃ v, dataRead s.mem 0 k s.sp = .ok v ∧ popGroup k n s = .ok ((s.setSp (s.sp + stackBytes k)).setGroup k n v) := by
  obtain ⟨v, hv⟩ := dataRead_ok s.mem segmentAnswers_zero k s.sp
  exact ⟨v, hv, by simp only [popGroup, bind, Except.bind, hv]⟩

/-- PUSH of an item that carries a segment: two words, the segment's above the offset's (43_stack.md R235). -/
theorem pushFar_spec (seg : Byte) (off : Word) (s : State) : ∃ m1 m, pushFar seg off s = .ok ((s.setSp (s.sp - 4)).setMem m) ∧
    Stored s.mem 0 (s.sp - 2) 2 (seg.zeroExtend 16) m1 ∧ Stored m1 0 (s.sp - 4) 2 off m := by
  obtain ⟨m1, h1, s1⟩ := push16_spec (seg.zeroExtend 16) s
  obtain ⟨m, h2, s2⟩ := push16_spec off ((s.setSp (s.sp - 2)).setMem m1)
  have e : s.sp - 2 - 2 = s.sp - 4 := by bv_omega
  simp only [State.setMem_sp, State.setSp_sp, State.setMem_mem, e] at h2 s2
  refine ⟨m1, m, ?_, s1, s2⟩
  simp only [pushFar, bind, Except.bind, h1, h2]
  rfl

/-! ## Loads and stores -/

/-- What a load can do: it answers where the data read does, with Z and S, EA and the group written. -/
theorem load_eq {k : Nat} {n : RegNum} {off : Word} {ea : State → State} {s : State} {v : BitVec (8 * k)}
    (h : dataRead s.mem s.seg k off = .ok v) : load k n off ea s = .next ((ea (s.setZS v)).setGroup k n v) := by
  simp only [load, bind, Except.bind, h, finish]

theorem load_next {k : Nat} {n : RegNum} {off : Word} {ea : State → State} {s t : State} (h : load k n off ea s = .next t) :
    ∃ v, dataRead s.mem s.seg k off = .ok v ∧ t = (ea (s.setZS v)).setGroup k n v := by
  cases e : dataRead s.mem s.seg k off with
  | error r => simp [load, bind, Except.bind, e, finish] at h
  | ok v => rw [load_eq e] at h; injection h with h; exact ⟨v, rfl, h.symm⟩

/-- What a store can do: it answers where the data write does, with the memory and EA changed. -/
theorem store_eq {k : Nat} {n : RegNum} {off : Word} {ea : State → State} {s : State} {m : Memory}
    (h : dataWrite s.mem s.seg k off (s.group k n) = .ok m) : store k n off ea s = .next (ea (s.setMem m)) := by
  simp only [store, bind, Except.bind, h, finish]

theorem store_next {k : Nat} {n : RegNum} {off : Word} {ea : State → State} {s t : State} (h : store k n off ea s = .next t) :
    ∃ m, dataWrite s.mem s.seg k off (s.group k n) = .ok m ∧ t = ea (s.setMem m) := by
  cases e : dataWrite s.mem s.seg k off (s.group k n) with
  | error r => simp [store, bind, Except.bind, e, finish] at h
  | ok m => rw [store_eq e] at h; injection h with h; exact ⟨m, rfl, h.symm⟩

/-- What a read and write back of one byte can do (47_misc.md R316, R317, R319, R321). -/
theorem modifyByte_spec {off : Word} {f psw : Byte → Byte} {s : State} (h : segmentAnswers s.seg) :
    ∃ p, placeOf s.seg off 0 = some p ∧ modifyByte off f psw s =
      .next ((s.setMem (Memory.write s.mem p (f (Memory.read s.mem p)))).setPsw (psw (Memory.read s.mem p))) := by
  obtain ⟨p, hp⟩ := physical_of_answers h off
  refine ⟨p, by rw [placeOf_zero]; exact hp, ?_⟩
  simp only [modifyByte, bind, Except.bind, readByte, writeByte, hp, finish]

theorem modifyByte_next {off : Word} {f psw : Byte → Byte} {s t : State} (h : modifyByte off f psw s = .next t) :
    ∃ p, placeOf s.seg off 0 = some p ∧
      t = (s.setMem (Memory.write s.mem p (f (Memory.read s.mem p)))).setPsw (psw (Memory.read s.mem p)) := by
  cases e : physical (address s.seg off) with
  | none => simp [modifyByte, bind, Except.bind, readByte, e, finish] at h
  | some k =>
    obtain ⟨p, hp, e'⟩ := modifyByte_spec (f := f) (psw := psw) (answers_of_physical e)
    rw [e'] at h
    injection h with h
    exact ⟨p, hp, h.symm⟩

end Sys2Proof.Machine
end

