-- ==== Sys2Proof/Laws/Decode.lean ====
section
/-! SUPPORT. The laws of the word fields: nibbles of a word put together from nibbles, immediates cut and joined again, the
condition codes, and the decoder on the bytes of given words. -/

namespace Sys2Proof

/-! ## Nibbles -/

@[simp] theorem nib3_mkWord (a b c d : BitVec 4) : nib3 (mkWord a b c d) = a := by
  apply BitVec.eq_of_getLsbD_eq
  intro i hi
  simp only [nib3, mkWord, BitVec.getLsbD_extractLsb', BitVec.getLsbD_append]
  have h0 : ¬ 12 + i < 4 := by omega
  have h1 : ¬ 12 + i - 4 < 4 := by omega
  have h2 : ¬ 12 + i - 4 - 4 < 4 := by omega
  have hx : 12 + i - 4 - 4 - 4 = i := by omega
  simp only [h0, h1, h2, hx, hi, if_false, decide_true, Bool.true_and]

@[simp] theorem nib2_mkWord (a b c d : BitVec 4) : nib2 (mkWord a b c d) = b := by
  apply BitVec.eq_of_getLsbD_eq
  intro i hi
  simp only [nib2, mkWord, BitVec.getLsbD_extractLsb', BitVec.getLsbD_append]
  have h0 : ¬ 8 + i < 4 := by omega
  have h1 : ¬ 8 + i - 4 < 4 := by omega
  have hx : 8 + i - 4 - 4 = i := by omega
  simp only [h0, h1, hx, hi, if_false, if_true, decide_true, Bool.true_and]

@[simp] theorem nib1_mkWord (a b c d : BitVec 4) : nib1 (mkWord a b c d) = c := by
  apply BitVec.eq_of_getLsbD_eq
  intro i hi
  simp only [nib1, mkWord, BitVec.getLsbD_extractLsb', BitVec.getLsbD_append]
  have h0 : ¬ 4 + i < 4 := by omega
  have hx : 4 + i - 4 = i := by omega
  simp only [h0, hx, hi, if_false, if_true, decide_true, Bool.true_and]

@[simp] theorem nib0_mkWord (a b c d : BitVec 4) : nib0 (mkWord a b c d) = d := by
  apply BitVec.eq_of_getLsbD_eq
  intro i hi
  simp only [nib0, mkWord, BitVec.getLsbD_extractLsb', BitVec.getLsbD_append]
  simp [hi]

/-- A word is its four nibbles. -/
theorem mkWord_nibs (w : Word) : mkWord (nib3 w) (nib2 w) (nib1 w) (nib0 w) = w := by
  apply BitVec.eq_of_getLsbD_eq
  intro i hi
  simp only [mkWord, nib3, nib2, nib1, nib0, BitVec.getLsbD_append, BitVec.getLsbD_extractLsb']
  by_cases h0 : i < 4
  · simp [h0]
  · by_cases h1 : i - 4 < 4
    · have : 4 + (i - 4) = i := by omega
      simp [h0, h1, this]
    · by_cases h2 : i - 4 - 4 < 4
      · have : 8 + (i - 4 - 4) = i := by omega
        simp [h0, h1, h2, this]
      · have : 12 + (i - 4 - 4 - 4) = i := by omega
        have h3 : i - 4 - 4 - 4 < 4 := by omega
        simp [h0, h1, h2, h3, this]

/-! ## Immediates cut into nibbles and joined again (30_encoding.md R97) -/

@[simp] theorem hi_append_lo (x : Byte) : hiNibble x ++ loNibble x = x := by revert x; decide
@[simp] theorem hiNibble_append (a b : BitVec 4) : hiNibble (a ++ b) = a := by revert a b; decide
@[simp] theorem loNibble_append (a b : BitVec 4) : loNibble (a ++ b) = b := by revert a b; decide

@[simp] theorem imm7Of_cut (t : BitVec 1) (x : BitVec 7) : imm7Of (t ++ x.extractLsb' 4 3) (x.extractLsb' 0 4) = x := by
  revert t x; decide

@[simp] theorem low6Of_cut (t : BitVec 2) (x : BitVec 6) : low6Of (t ++ x.extractLsb' 4 2) (x.extractLsb' 0 4) = x := by
  revert t x; decide

@[simp] theorem top2Of_cut (t x : BitVec 2) : top2Of (t ++ x) = t := by revert t x; decide
@[simp] theorem low3Of_cut (t : BitVec 1) (x : BitVec 3) : low3Of (t ++ x) = x := by revert t x; decide
@[simp] theorem msb_cut0 (x : BitVec 3) : (0#1 ++ x).msb = false := by revert x; decide
@[simp] theorem msb_cut1 (x : BitVec 3) : (1#1 ++ x).msb = true := by revert x; decide

/-! ## Condition codes (45_branch.md R281) and register lists (43_stack.md R235, R240) -/

@[simp] theorem Cond.ofCode_code (c : Cond) : Cond.ofCode c.code = c := by cases c <;> rfl
@[simp] theorem Cond.code_ofCode (c : BitVec 4) : (Cond.ofCode c).code = c := by revert c; decide

theorem listField_bits (l e p a : Bool) : (listField l e p a).getLsbD 3 = l ∧ (listField l e p a).getLsbD 2 = e ∧
    (listField l e p a).getLsbD 1 = p ∧ (listField l e p a).getLsbD 0 = a := by
  revert l e p a; decide

theorem listField_of_bits (x : BitVec 4) : listField (x.getLsbD 3) (x.getLsbD 2) (x.getLsbD 1) (x.getLsbD 0) = x := by
  revert x; decide

/-! ## The decoder on words -/

theorem FirstWord.onlyIf_true (r : FirstWord) : FirstWord.onlyIf true r = r := rfl
theorem FirstWord.onlyIf_false (r : FirstWord) : FirstWord.onlyIf false r = .illegal := rfl

@[simp] theorem wordOfBytes_cut (w : Word) : wordOfBytes (w.extractLsb' 0 8) (w.extractLsb' 8 8) = w := by
  apply BitVec.eq_of_getLsbD_eq
  intro i hi
  simp only [wordOfBytes, BitVec.getLsbD_append, BitVec.getLsbD_extractLsb']
  by_cases h : i < 8
  · simp [h]
  · have h1 : i - 8 < 8 := by omega
    have h2 : 8 + (i - 8) = i := by omega
    simp [h, h1, h2]

/-- What the decoder answers on the bytes of a first word that is a whole instruction (30_encoding.md R92). -/
theorem decode_whole {w : Word} {i : Instr} (h : decodeFirst w = .whole i) (rest : List Byte) :
    decode (bytesOfWords [w] ++ rest) = .ok (i, rest) := by
  simp [bytesOfWords, decode, h]

/-- What the decoder answers on the bytes of a first word with hint TI and the word after it (30_encoding.md R93). -/
theorem decode_long {w x : Word} {f : Word → Instr} (h : decodeFirst w = .long f) (rest : List Byte) :
    decode (bytesOfWords [w, x] ++ rest) = .ok (f x, rest) := by
  simp [bytesOfWords, decode, h]

/-- What the decoder answers on the bytes of a word that matches no row (30_encoding.md R121). -/
theorem decode_illegal {w : Word} (h : decodeFirst w = .illegal) (rest : List Byte) :
    decode (bytesOfWords [w] ++ rest) = .error (.undefinedInstruction w) := by
  simp [bytesOfWords, decode, h]

end Sys2Proof
end

