-- ==== Sys2Proof/Laws/Flags.lean ====
section
/-! SUPPORT. The laws of the flag computations: what each write of a PSW field does to each field, and the fields of the
results. -/

namespace Sys2Proof.Machine

/-- A bit of a byte one of whose bits has been set. -/
theorem getLsbD_setBit (x : Byte) {k : Nat} (hk : k < 8) (b : Bool) (i : Nat) :
    (setBit x k b).getLsbD i = if i = k then b else x.getLsbD i := by
  unfold setBit
  by_cases hi : i = k
  · subst hi; cases b <;> simp [hk]
  · by_cases h8 : i < 8
    · have h : ¬ (k ≤ i ∧ i - k = 0) := by omega
      cases b <;> simp [hi, h8] <;> omega
    · cases b <;> simp [hi, BitVec.getLsbD_of_ge _ i (by omega : 8 ≤ i)]

/-! ## Each field after a write of each field (10_state.md R30) -/

@[simp] theorem pswC_withC (p : Byte) (b : Bool) : pswC (withC p b) = b := getLsbD_setBit p (by decide) b 7
@[simp] theorem pswZ_withC (p : Byte) (b : Bool) : pswZ (withC p b) = pswZ p := getLsbD_setBit p (by decide) b 6
@[simp] theorem pswS_withC (p : Byte) (b : Bool) : pswS (withC p b) = pswS p := getLsbD_setBit p (by decide) b 5
@[simp] theorem pswOV_withC (p : Byte) (b : Bool) : pswOV (withC p b) = pswOV p := getLsbD_setBit p (by decide) b 4
@[simp] theorem pswMIE_withC (p : Byte) (b : Bool) : pswMIE (withC p b) = pswMIE p := getLsbD_setBit p (by decide) b 3
@[simp] theorem pswHC_withC (p : Byte) (b : Bool) : pswHC (withC p b) = pswHC p := getLsbD_setBit p (by decide) b 2
@[simp] theorem pswLevel_withC (p : Byte) (b : Bool) : pswLevel (withC p b) = pswLevel p := by
  apply BitVec.eq_of_getLsbD_eq
  intro i hi
  have : i ≠ 7 := by omega
  simp [pswLevel, withC, getLsbD_setBit p (by decide : 7 < 8), hi, this]
@[simp] theorem pswC_withZ (p : Byte) (b : Bool) : pswC (withZ p b) = pswC p := getLsbD_setBit p (by decide) b 7
@[simp] theorem pswZ_withZ (p : Byte) (b : Bool) : pswZ (withZ p b) = b := getLsbD_setBit p (by decide) b 6
@[simp] theorem pswS_withZ (p : Byte) (b : Bool) : pswS (withZ p b) = pswS p := getLsbD_setBit p (by decide) b 5
@[simp] theorem pswOV_withZ (p : Byte) (b : Bool) : pswOV (withZ p b) = pswOV p := getLsbD_setBit p (by decide) b 4
@[simp] theorem pswMIE_withZ (p : Byte) (b : Bool) : pswMIE (withZ p b) = pswMIE p := getLsbD_setBit p (by decide) b 3
@[simp] theorem pswHC_withZ (p : Byte) (b : Bool) : pswHC (withZ p b) = pswHC p := getLsbD_setBit p (by decide) b 2
@[simp] theorem pswLevel_withZ (p : Byte) (b : Bool) : pswLevel (withZ p b) = pswLevel p := by
  apply BitVec.eq_of_getLsbD_eq
  intro i hi
  have : i ≠ 6 := by omega
  simp [pswLevel, withZ, getLsbD_setBit p (by decide : 6 < 8), hi, this]
@[simp] theorem pswC_withS (p : Byte) (b : Bool) : pswC (withS p b) = pswC p := getLsbD_setBit p (by decide) b 7
@[simp] theorem pswZ_withS (p : Byte) (b : Bool) : pswZ (withS p b) = pswZ p := getLsbD_setBit p (by decide) b 6
@[simp] theorem pswS_withS (p : Byte) (b : Bool) : pswS (withS p b) = b := getLsbD_setBit p (by decide) b 5
@[simp] theorem pswOV_withS (p : Byte) (b : Bool) : pswOV (withS p b) = pswOV p := getLsbD_setBit p (by decide) b 4
@[simp] theorem pswMIE_withS (p : Byte) (b : Bool) : pswMIE (withS p b) = pswMIE p := getLsbD_setBit p (by decide) b 3
@[simp] theorem pswHC_withS (p : Byte) (b : Bool) : pswHC (withS p b) = pswHC p := getLsbD_setBit p (by decide) b 2
@[simp] theorem pswLevel_withS (p : Byte) (b : Bool) : pswLevel (withS p b) = pswLevel p := by
  apply BitVec.eq_of_getLsbD_eq
  intro i hi
  have : i ≠ 5 := by omega
  simp [pswLevel, withS, getLsbD_setBit p (by decide : 5 < 8), hi, this]
@[simp] theorem pswC_withOV (p : Byte) (b : Bool) : pswC (withOV p b) = pswC p := getLsbD_setBit p (by decide) b 7
@[simp] theorem pswZ_withOV (p : Byte) (b : Bool) : pswZ (withOV p b) = pswZ p := getLsbD_setBit p (by decide) b 6
@[simp] theorem pswS_withOV (p : Byte) (b : Bool) : pswS (withOV p b) = pswS p := getLsbD_setBit p (by decide) b 5
@[simp] theorem pswOV_withOV (p : Byte) (b : Bool) : pswOV (withOV p b) = b := getLsbD_setBit p (by decide) b 4
@[simp] theorem pswMIE_withOV (p : Byte) (b : Bool) : pswMIE (withOV p b) = pswMIE p := getLsbD_setBit p (by decide) b 3
@[simp] theorem pswHC_withOV (p : Byte) (b : Bool) : pswHC (withOV p b) = pswHC p := getLsbD_setBit p (by decide) b 2
@[simp] theorem pswLevel_withOV (p : Byte) (b : Bool) : pswLevel (withOV p b) = pswLevel p := by
  apply BitVec.eq_of_getLsbD_eq
  intro i hi
  have : i ≠ 4 := by omega
  simp [pswLevel, withOV, getLsbD_setBit p (by decide : 4 < 8), hi, this]
@[simp] theorem pswC_withMIE (p : Byte) (b : Bool) : pswC (withMIE p b) = pswC p := getLsbD_setBit p (by decide) b 7
@[simp] theorem pswZ_withMIE (p : Byte) (b : Bool) : pswZ (withMIE p b) = pswZ p := getLsbD_setBit p (by decide) b 6
@[simp] theorem pswS_withMIE (p : Byte) (b : Bool) : pswS (withMIE p b) = pswS p := getLsbD_setBit p (by decide) b 5
@[simp] theorem pswOV_withMIE (p : Byte) (b : Bool) : pswOV (withMIE p b) = pswOV p := getLsbD_setBit p (by decide) b 4
@[simp] theorem pswMIE_withMIE (p : Byte) (b : Bool) : pswMIE (withMIE p b) = b := getLsbD_setBit p (by decide) b 3
@[simp] theorem pswHC_withMIE (p : Byte) (b : Bool) : pswHC (withMIE p b) = pswHC p := getLsbD_setBit p (by decide) b 2
@[simp] theorem pswLevel_withMIE (p : Byte) (b : Bool) : pswLevel (withMIE p b) = pswLevel p := by
  apply BitVec.eq_of_getLsbD_eq
  intro i hi
  have : i ≠ 3 := by omega
  simp [pswLevel, withMIE, getLsbD_setBit p (by decide : 3 < 8), hi, this]
@[simp] theorem pswC_withHC (p : Byte) (b : Bool) : pswC (withHC p b) = pswC p := getLsbD_setBit p (by decide) b 7
@[simp] theorem pswZ_withHC (p : Byte) (b : Bool) : pswZ (withHC p b) = pswZ p := getLsbD_setBit p (by decide) b 6
@[simp] theorem pswS_withHC (p : Byte) (b : Bool) : pswS (withHC p b) = pswS p := getLsbD_setBit p (by decide) b 5
@[simp] theorem pswOV_withHC (p : Byte) (b : Bool) : pswOV (withHC p b) = pswOV p := getLsbD_setBit p (by decide) b 4
@[simp] theorem pswMIE_withHC (p : Byte) (b : Bool) : pswMIE (withHC p b) = pswMIE p := getLsbD_setBit p (by decide) b 3
@[simp] theorem pswHC_withHC (p : Byte) (b : Bool) : pswHC (withHC p b) = b := getLsbD_setBit p (by decide) b 2
@[simp] theorem pswLevel_withHC (p : Byte) (b : Bool) : pswLevel (withHC p b) = pswLevel p := by
  apply BitVec.eq_of_getLsbD_eq
  intro i hi
  have : i ≠ 2 := by omega
  simp [pswLevel, withHC, getLsbD_setBit p (by decide : 2 < 8), hi, this]
@[simp] theorem pswC_withLevel (p : Byte) (l : BitVec 2) : pswC (withLevel p l) = pswC p := by
  simp only [pswC, withLevel, BitVec.getLsbD_append]; simp
@[simp] theorem pswZ_withLevel (p : Byte) (l : BitVec 2) : pswZ (withLevel p l) = pswZ p := by
  simp only [pswZ, withLevel, BitVec.getLsbD_append]; simp
@[simp] theorem pswS_withLevel (p : Byte) (l : BitVec 2) : pswS (withLevel p l) = pswS p := by
  simp only [pswS, withLevel, BitVec.getLsbD_append]; simp
@[simp] theorem pswOV_withLevel (p : Byte) (l : BitVec 2) : pswOV (withLevel p l) = pswOV p := by
  simp only [pswOV, withLevel, BitVec.getLsbD_append]; simp
@[simp] theorem pswMIE_withLevel (p : Byte) (l : BitVec 2) : pswMIE (withLevel p l) = pswMIE p := by
  simp only [pswMIE, withLevel, BitVec.getLsbD_append]; simp
@[simp] theorem pswHC_withLevel (p : Byte) (l : BitVec 2) : pswHC (withLevel p l) = pswHC p := by
  simp only [pswHC, withLevel, BitVec.getLsbD_append]; simp
@[simp] theorem pswLevel_withLevel (p : Byte) (l : BitVec 2) : pswLevel (withLevel p l) = l := by
  apply BitVec.eq_of_getLsbD_eq
  intro i hi
  simp only [pswLevel, withLevel, BitVec.getLsbD_extractLsb', BitVec.getLsbD_append]; simp [hi]

/-! ## A PSW is its fields -/

@[simp] theorem pswC_packPsw (c z s ov mie hc : Bool) (l : BitVec 2) : pswC (packPsw c z s ov mie hc l) = c := by
  simp only [pswC, packPsw, BitVec.getLsbD_append]; simp
@[simp] theorem pswZ_packPsw (c z s ov mie hc : Bool) (l : BitVec 2) : pswZ (packPsw c z s ov mie hc l) = z := by
  simp only [pswZ, packPsw, BitVec.getLsbD_append]; simp
@[simp] theorem pswS_packPsw (c z s ov mie hc : Bool) (l : BitVec 2) : pswS (packPsw c z s ov mie hc l) = s := by
  simp only [pswS, packPsw, BitVec.getLsbD_append]; simp
@[simp] theorem pswOV_packPsw (c z s ov mie hc : Bool) (l : BitVec 2) : pswOV (packPsw c z s ov mie hc l) = ov := by
  simp only [pswOV, packPsw, BitVec.getLsbD_append]; simp
@[simp] theorem pswMIE_packPsw (c z s ov mie hc : Bool) (l : BitVec 2) : pswMIE (packPsw c z s ov mie hc l) = mie := by
  simp only [pswMIE, packPsw, BitVec.getLsbD_append]; simp
@[simp] theorem pswHC_packPsw (c z s ov mie hc : Bool) (l : BitVec 2) : pswHC (packPsw c z s ov mie hc l) = hc := by
  simp only [pswHC, packPsw, BitVec.getLsbD_append]; simp
@[simp] theorem pswLevel_packPsw (c z s ov mie hc : Bool) (l : BitVec 2) : pswLevel (packPsw c z s ov mie hc l) = l := by
  apply BitVec.eq_of_getLsbD_eq
  intro i hi
  simp only [pswLevel, packPsw, BitVec.getLsbD_extractLsb', BitVec.getLsbD_append]; simp [hi]

/-- Two PSW values with the same fields are the same. -/
theorem psw_ext {p q : Byte} (hc : pswC p = pswC q) (hz : pswZ p = pswZ q) (hs : pswS p = pswS q) (hov : pswOV p = pswOV q)
    (hmie : pswMIE p = pswMIE q) (hhc : pswHC p = pswHC q) (hl : pswLevel p = pswLevel q) : p = q := by
  have h0 : ∀ i < 2, p.getLsbD i = q.getLsbD i := fun i hi => by
    have := congrArg (fun x => BitVec.getLsbD x i) hl
    simpa [pswLevel, hi] using this
  apply BitVec.eq_of_getLsbD_eq
  intro i hi
  match i, hi with
  | 0, _ => exact h0 0 (by decide)
  | 1, _ => exact h0 1 (by decide)
  | 2, _ => exact hhc
  | 3, _ => exact hmie
  | 4, _ => exact hov
  | 5, _ => exact hs
  | 6, _ => exact hz
  | 7, _ => exact hc

/-- A PSW is packed from its fields (10_state.md R30). -/
theorem psw_eq_pack (p : Byte) : p = packPsw (pswC p) (pswZ p) (pswS p) (pswOV p) (pswMIE p) (pswHC p) (pswLevel p) := by
  apply psw_ext <;> simp

/-! ## The writes of the add and subtract helper and of Z and S -/

theorem withArith_eq (p : Byte) (f : Flags) : withArith p f = packPsw f.c f.z f.s f.ov (pswMIE p) f.hc (pswLevel p) := by
  apply psw_ext <;> simp [withArith]

theorem withArithKeepC_eq (p : Byte) (f : Flags) :
    withArithKeepC p f = packPsw (pswC p) f.z f.s f.ov (pswMIE p) f.hc (pswLevel p) := by
  apply psw_ext <;> simp [withArithKeepC]

theorem withZS_eq (p : Byte) {w : Nat} (v : BitVec w) :
    withZS p v = packPsw (pswC p) (v == 0#w) v.msb (pswOV p) (pswMIE p) (pswHC p) (pswLevel p) := by
  apply psw_ext <;> simp [withZS]

theorem withC_eq (p : Byte) (b : Bool) : withC p b = packPsw b (pswZ p) (pswS p) (pswOV p) (pswMIE p) (pswHC p) (pswLevel p) := by
  apply psw_ext <;> simp

theorem withZ_eq (p : Byte) (b : Bool) : withZ p b = packPsw (pswC p) b (pswS p) (pswOV p) (pswMIE p) (pswHC p) (pswLevel p) := by
  apply psw_ext <;> simp

theorem withMIE_eq (p : Byte) (b : Bool) : withMIE p b = packPsw (pswC p) (pswZ p) (pswS p) (pswOV p) b (pswHC p) (pswLevel p) := by
  apply psw_ext <;> simp

theorem withLevel_eq (p : Byte) (l : BitVec 2) :
    withLevel p l = packPsw (pswC p) (pswZ p) (pswS p) (pswOV p) (pswMIE p) (pswHC p) l := by
  apply psw_ext <;> simp

/-! ## Results and overflow -/

@[simp] theorem addFlags_result (h : Nat) {w : Nat} (a b : BitVec w) (cin : Bool) :
    (addFlags h a b cin).1 = BitVec.ofNat w (a.toNat + b.toNat + cin.toNat) := rfl

@[simp] theorem subFlags_result (h : Nat) {w : Nat} (a b : BitVec w) (bin : Bool) :
    (subFlags h a b bin).1 = BitVec.ofInt w ((a.toNat : Int) - b.toNat - bin.toNat) := rfl

/-- The sign of a value, read from its number. -/
theorem msb_iff {w : Nat} (x : BitVec (w + 1)) : x.msb = decide (2 ^ w ≤ x.toNat) := by
  rw [BitVec.msb_eq_decide]; simp

end Sys2Proof.Machine
end

