-- ==== Sys2Proof/Laws/Exception.lean ====
section
/-! SUPPORT. What taking an exception, returning from one, and `Reset()` do to each field. -/

namespace Sys2Proof.Machine

/-- Bit 0 of a value stored into PC is dropped (10_state.md R26). -/
theorem pc_mask_even (v : Word) : (v &&& 0xFFFE).getLsbD 0 = false := by simp

/-- A word with bit 0 clear is not changed by the mask of PC. -/
theorem pc_mask_of_even {v : Word} (h : v.getLsbD 0 = false) : v &&& 0xFFFE = v := by
  apply BitVec.eq_of_getLsbD_eq
  intro i hi
  rw [BitVec.getLsbD_and]
  match i, hi with
  | 0, _ => rw [h]; rfl
  | i + 1, hi =>
    have : (0xFFFE : Word).getLsbD (i + 1) = true := by
      have h15 : ∀ j : Fin 15, (0xFFFE : Word).getLsbD (j.val + 1) = true := by decide
      exact h15 ⟨i, by omega⟩
    rw [this, Bool.and_true]

/-! ## Taking an exception (60_exceptions.md R341) -/

section
variable (l : BitVec 2) (index : BitVec 7) (s : State)

@[simp] theorem takeException_regs : (takeException l index s).regs = s.regs := by unfold takeException; simp only; split <;> rfl
@[simp] theorem takeException_sp : (takeException l index s).sp = s.sp := by unfold takeException; simp only; split <;> rfl
@[simp] theorem takeException_ea : (takeException l index s).ea = s.ea := by unfold takeException; simp only; split <;> rfl
@[simp] theorem takeException_dsr : (takeException l index s).dsr = s.dsr := by unfold takeException; simp only; split <;> rfl
@[simp] theorem takeException_cs : (takeException l index s).cs = s.cs := by unfold takeException; simp only; split <;> rfl
@[simp] theorem takeException_seg : (takeException l index s).seg = s.seg := by unfold takeException; simp only; split <;> rfl
@[simp] theorem takeException_signal : (takeException l index s).signal = s.signal := by unfold takeException; simp only; split <;> rfl
@[simp] theorem takeException_stopped : (takeException l index s).stopped = s.stopped := by
  unfold takeException; simp only; split <;> rfl
@[simp] theorem takeException_mem : (takeException l index s).mem = s.mem := by unfold takeException; simp only; split <;> rfl
@[simp] theorem takeException_csr : (takeException l index s).csr = 0 := rfl
@[simp] theorem takeException_pc : (takeException l index s).pc = vectorEntry s.mem index &&& 0xFFFE := by
  unfold takeException; simp only; split <;> rfl

@[simp] theorem takeException_elrOf (i : BitVec 2) : (takeException l index s).elrOf i = if l = i then s.pc else s.elrOf i := by
  unfold takeException
  simp only
  split <;> simp [State.setElr_elrOf]

@[simp] theorem takeException_ecsrOf (i : BitVec 2) :
    (takeException l index s).ecsrOf i = if l = i then s.csr else s.ecsrOf i := by
  unfold takeException
  simp only
  split <;> simp [State.setEcsr_ecsrOf]

@[simp] theorem takeException_epswOf (i : BitVec 2) :
    (takeException l index s).epswOf i = if i = 0 then pswOnEntry l s.psw else if l = i then s.psw else s.epswOf i := by
  unfold takeException
  simp only
  split
  · rename_i hl
    subst hl
    by_cases h : i = 0#2
    · subst h; simp [State.setPsw_epswOf]
    · have h' : ¬ (0#2 = i) := fun e => h e.symm
      simp [State.setPsw_epswOf, h, h']
  · by_cases h : i = 0#2
    · subst h; simp [State.setPsw_epswOf]
    · have h' : ¬ (0#2 = i) := fun e => h e.symm
      simp [State.setPsw_epswOf, State.setEpsw_epswOf, h, h']

@[simp] theorem takeException_psw : (takeException l index s).psw = pswOnEntry l s.psw := by
  simp [State.psw]

@[simp] theorem takeException_level : (takeException l index s).level = l := by
  simp only [State.level, takeException_psw, pswOnEntry]
  split <;> simp

end

/-- PSW after entry, by its fields (60_exceptions.md R341, R343). -/
theorem pswOnEntry_eq (l : BitVec 2) (p : Byte) : pswOnEntry l p =
    packPsw (pswC p) (pswZ p) (pswS p) (pswOV p) (if l = 1 then false else pswMIE p) (pswHC p) l := by
  unfold pswOnEntry
  split <;> apply psw_ext <;> simp

/-! ## Returning from an exception (46_interrupt.md R300) -/

@[simp] theorem returnFromException_pc (s : State) : (returnFromException s).pc = s.elrOf s.level &&& 0xFFFE := rfl
@[simp] theorem returnFromException_csr (s : State) : (returnFromException s).csr = s.ecsrOf s.level := rfl
@[simp] theorem returnFromException_psw (s : State) : (returnFromException s).psw = s.epswOf s.level := by simp [returnFromException]

/-! ## `Reset()` (70_reset_and_hazards.md R381, R382) -/

/-- What `Reset()` leaves in each cell it writes; every other field is kept. -/
theorem hostReset_eq (s : State) : s.hostReset =
    { s with sp := vectorEntry s.mem 0, pc := vectorEntry s.mem 1 &&& 0xFFFE, dsr := 0, csr := 0, cs := false,
             epsw := s.epsw.set 0 0x00, stopped := false, seg := 0, signal := none } := rfl

/-- The reset state is what `Reset()` leaves of itself. -/
theorem hostReset_reset : State.reset.hostReset = State.reset := rfl

end Sys2Proof.Machine
end

