-- ==== Sys2Proof/Laws/PerInstr.lean ====
section
/-! SUPPORT. Families of facts about every instruction as syntax, one lemma for each constructor. -/

namespace Sys2Proof.Laws

/-- An instruction is one word, or two where its row carries hint TI (30_encoding.md R90). -/
def WordCount.Statement (i : Instr) : Prop := (encode i).length = 1 ∨ (encode i).length = 2

theorem WordCount.addRnRm (n m : RegNum) : WordCount.Statement (.addRnRm n m) := .inl rfl
theorem WordCount.addRnImm8 (n : RegNum) (imm : Byte) : WordCount.Statement (.addRnImm8 n imm) := .inl rfl
theorem WordCount.addERnERm (n m : RegNum) : WordCount.Statement (.addERnERm n m) := .inl rfl
theorem WordCount.addERnImm7 (n : RegNum) (imm : BitVec 7) : WordCount.Statement (.addERnImm7 n imm) := .inl rfl
theorem WordCount.addcRnRm (n m : RegNum) : WordCount.Statement (.addcRnRm n m) := .inl rfl
theorem WordCount.addcRnImm8 (n : RegNum) (imm : Byte) : WordCount.Statement (.addcRnImm8 n imm) := .inl rfl
theorem WordCount.andRnRm (n m : RegNum) : WordCount.Statement (.andRnRm n m) := .inl rfl
theorem WordCount.andRnImm8 (n : RegNum) (imm : Byte) : WordCount.Statement (.andRnImm8 n imm) := .inl rfl
theorem WordCount.cmpRnRm (n m : RegNum) : WordCount.Statement (.cmpRnRm n m) := .inl rfl
theorem WordCount.cmpRnImm8 (n : RegNum) (imm : Byte) : WordCount.Statement (.cmpRnImm8 n imm) := .inl rfl
theorem WordCount.cmpcRnRm (n m : RegNum) : WordCount.Statement (.cmpcRnRm n m) := .inl rfl
theorem WordCount.cmpcRnImm8 (n : RegNum) (imm : Byte) : WordCount.Statement (.cmpcRnImm8 n imm) := .inl rfl
theorem WordCount.movERnERm (n m : RegNum) : WordCount.Statement (.movERnERm n m) := .inl rfl
theorem WordCount.movERnImm7 (n : RegNum) (imm : BitVec 7) : WordCount.Statement (.movERnImm7 n imm) := .inl rfl
theorem WordCount.movRnRm (n m : RegNum) : WordCount.Statement (.movRnRm n m) := .inl rfl
theorem WordCount.movRnImm8 (n : RegNum) (imm : Byte) : WordCount.Statement (.movRnImm8 n imm) := .inl rfl
theorem WordCount.orRnRm (n m : RegNum) : WordCount.Statement (.orRnRm n m) := .inl rfl
theorem WordCount.orRnImm8 (n : RegNum) (imm : Byte) : WordCount.Statement (.orRnImm8 n imm) := .inl rfl
theorem WordCount.xorRnRm (n m : RegNum) : WordCount.Statement (.xorRnRm n m) := .inl rfl
theorem WordCount.xorRnImm8 (n : RegNum) (imm : Byte) : WordCount.Statement (.xorRnImm8 n imm) := .inl rfl
theorem WordCount.cmpERnERm (n m : RegNum) : WordCount.Statement (.cmpERnERm n m) := .inl rfl
theorem WordCount.subRnRm (n m : RegNum) : WordCount.Statement (.subRnRm n m) := .inl rfl
theorem WordCount.subcRnRm (n m : RegNum) : WordCount.Statement (.subcRnRm n m) := .inl rfl
theorem WordCount.sllRnRm (n m : RegNum) : WordCount.Statement (.sllRnRm n m) := .inl rfl
theorem WordCount.sllRnWidth (n : RegNum) (w : BitVec 3) : WordCount.Statement (.sllRnWidth n w) := .inl rfl
theorem WordCount.sllcRnRm (n m : RegNum) : WordCount.Statement (.sllcRnRm n m) := .inl rfl
theorem WordCount.sllcRnWidth (n : RegNum) (w : BitVec 3) : WordCount.Statement (.sllcRnWidth n w) := .inl rfl
theorem WordCount.sraRnRm (n m : RegNum) : WordCount.Statement (.sraRnRm n m) := .inl rfl
theorem WordCount.sraRnWidth (n : RegNum) (w : BitVec 3) : WordCount.Statement (.sraRnWidth n w) := .inl rfl
theorem WordCount.srlRnRm (n m : RegNum) : WordCount.Statement (.srlRnRm n m) := .inl rfl
theorem WordCount.srlRnWidth (n : RegNum) (w : BitVec 3) : WordCount.Statement (.srlRnWidth n w) := .inl rfl
theorem WordCount.srlcRnRm (n m : RegNum) : WordCount.Statement (.srlcRnRm n m) := .inl rfl
theorem WordCount.srlcRnWidth (n : RegNum) (w : BitVec 3) : WordCount.Statement (.srlcRnWidth n w) := .inl rfl
theorem WordCount.lERnEA (n : RegNum) : WordCount.Statement (.lERnEA n) := .inl rfl
theorem WordCount.lERnEAInc (n : RegNum) : WordCount.Statement (.lERnEAInc n) := .inl rfl
theorem WordCount.lERnERm (n m : RegNum) : WordCount.Statement (.lERnERm n m) := .inl rfl
theorem WordCount.lERnDisp16ERm (n m : RegNum) (d : Word) : WordCount.Statement (.lERnDisp16ERm n m d) := .inr rfl
theorem WordCount.lERnDisp6BP (n : RegNum) (d : BitVec 6) : WordCount.Statement (.lERnDisp6BP n d) := .inl rfl
theorem WordCount.lERnDisp6FP (n : RegNum) (d : BitVec 6) : WordCount.Statement (.lERnDisp6FP n d) := .inl rfl
theorem WordCount.lERnDadr (n : RegNum) (a : Word) : WordCount.Statement (.lERnDadr n a) := .inr rfl
theorem WordCount.lRnEA (n : RegNum) : WordCount.Statement (.lRnEA n) := .inl rfl
theorem WordCount.lRnEAInc (n : RegNum) : WordCount.Statement (.lRnEAInc n) := .inl rfl
theorem WordCount.lRnERm (n m : RegNum) : WordCount.Statement (.lRnERm n m) := .inl rfl
theorem WordCount.lRnDisp16ERm (n m : RegNum) (d : Word) : WordCount.Statement (.lRnDisp16ERm n m d) := .inr rfl
theorem WordCount.lRnDisp6BP (n : RegNum) (d : BitVec 6) : WordCount.Statement (.lRnDisp6BP n d) := .inl rfl
theorem WordCount.lRnDisp6FP (n : RegNum) (d : BitVec 6) : WordCount.Statement (.lRnDisp6FP n d) := .inl rfl
theorem WordCount.lRnDadr (n : RegNum) (a : Word) : WordCount.Statement (.lRnDadr n a) := .inr rfl
theorem WordCount.lXRnEA (n : RegNum) : WordCount.Statement (.lXRnEA n) := .inl rfl
theorem WordCount.lXRnEAInc (n : RegNum) : WordCount.Statement (.lXRnEAInc n) := .inl rfl
theorem WordCount.lQRnEA (n : RegNum) : WordCount.Statement (.lQRnEA n) := .inl rfl
theorem WordCount.lQRnEAInc (n : RegNum) : WordCount.Statement (.lQRnEAInc n) := .inl rfl
theorem WordCount.stERnEA (n : RegNum) : WordCount.Statement (.stERnEA n) := .inl rfl
theorem WordCount.stERnEAInc (n : RegNum) : WordCount.Statement (.stERnEAInc n) := .inl rfl
theorem WordCount.stERnERm (n m : RegNum) : WordCount.Statement (.stERnERm n m) := .inl rfl
theorem WordCount.stERnDisp16ERm (n m : RegNum) (d : Word) : WordCount.Statement (.stERnDisp16ERm n m d) := .inr rfl
theorem WordCount.stERnDisp6BP (n : RegNum) (d : BitVec 6) : WordCount.Statement (.stERnDisp6BP n d) := .inl rfl
theorem WordCount.stERnDisp6FP (n : RegNum) (d : BitVec 6) : WordCount.Statement (.stERnDisp6FP n d) := .inl rfl
theorem WordCount.stERnDadr (n : RegNum) (a : Word) : WordCount.Statement (.stERnDadr n a) := .inr rfl
theorem WordCount.stRnEA (n : RegNum) : WordCount.Statement (.stRnEA n) := .inl rfl
theorem WordCount.stRnEAInc (n : RegNum) : WordCount.Statement (.stRnEAInc n) := .inl rfl
theorem WordCount.stRnERm (n m : RegNum) : WordCount.Statement (.stRnERm n m) := .inl rfl
theorem WordCount.stRnDisp16ERm (n m : RegNum) (d : Word) : WordCount.Statement (.stRnDisp16ERm n m d) := .inr rfl
theorem WordCount.stRnDisp6BP (n : RegNum) (d : BitVec 6) : WordCount.Statement (.stRnDisp6BP n d) := .inl rfl
theorem WordCount.stRnDisp6FP (n : RegNum) (d : BitVec 6) : WordCount.Statement (.stRnDisp6FP n d) := .inl rfl
theorem WordCount.stRnDadr (n : RegNum) (a : Word) : WordCount.Statement (.stRnDadr n a) := .inr rfl
theorem WordCount.stXRnEA (n : RegNum) : WordCount.Statement (.stXRnEA n) := .inl rfl
theorem WordCount.stXRnEAInc (n : RegNum) : WordCount.Statement (.stXRnEAInc n) := .inl rfl
theorem WordCount.stQRnEA (n : RegNum) : WordCount.Statement (.stQRnEA n) := .inl rfl
theorem WordCount.stQRnEAInc (n : RegNum) : WordCount.Statement (.stQRnEAInc n) := .inl rfl
theorem WordCount.pushRn (n : RegNum) : WordCount.Statement (.pushRn n) := .inl rfl
theorem WordCount.pushERn (n : RegNum) : WordCount.Statement (.pushERn n) := .inl rfl
theorem WordCount.pushXRn (n : RegNum) : WordCount.Statement (.pushXRn n) := .inl rfl
theorem WordCount.pushQRn (n : RegNum) : WordCount.Statement (.pushQRn n) := .inl rfl
theorem WordCount.pushList (l e p a : Bool) : WordCount.Statement (.pushList l e p a) := .inl rfl
theorem WordCount.popRn (n : RegNum) : WordCount.Statement (.popRn n) := .inl rfl
theorem WordCount.popERn (n : RegNum) : WordCount.Statement (.popERn n) := .inl rfl
theorem WordCount.popXRn (n : RegNum) : WordCount.Statement (.popXRn n) := .inl rfl
theorem WordCount.popQRn (n : RegNum) : WordCount.Statement (.popQRn n) := .inl rfl
theorem WordCount.popList (l e p a : Bool) : WordCount.Statement (.popList l e p a) := .inl rfl
theorem WordCount.movECSRRm (m : RegNum) : WordCount.Statement (.movECSRRm m) := .inl rfl
theorem WordCount.movEPSWRm (m : RegNum) : WordCount.Statement (.movEPSWRm m) := .inl rfl
theorem WordCount.movELRERm (m : RegNum) : WordCount.Statement (.movELRERm m) := .inl rfl
theorem WordCount.movERnELR (n : RegNum) : WordCount.Statement (.movERnELR n) := .inl rfl
theorem WordCount.movRnEPSW (n : RegNum) : WordCount.Statement (.movRnEPSW n) := .inl rfl
theorem WordCount.movPSWRm (m : RegNum) : WordCount.Statement (.movPSWRm m) := .inl rfl
theorem WordCount.movPSWImm8 (imm : Byte) : WordCount.Statement (.movPSWImm8 imm) := .inl rfl
theorem WordCount.movRnECSR (n : RegNum) : WordCount.Statement (.movRnECSR n) := .inl rfl
theorem WordCount.movRnPSW (n : RegNum) : WordCount.Statement (.movRnPSW n) := .inl rfl
theorem WordCount.movERnSP (n : RegNum) : WordCount.Statement (.movERnSP n) := .inl rfl
theorem WordCount.movSPERm (m : RegNum) : WordCount.Statement (.movSPERm m) := .inl rfl
theorem WordCount.addSPImm8 (imm : Byte) : WordCount.Statement (.addSPImm8 imm) := .inl rfl
theorem WordCount.leaERm (m : RegNum) : WordCount.Statement (.leaERm m) := .inl rfl
theorem WordCount.leaDisp16ERm (m : RegNum) (d : Word) : WordCount.Statement (.leaDisp16ERm m d) := .inr rfl
theorem WordCount.leaDadr (a : Word) : WordCount.Statement (.leaDadr a) := .inr rfl
theorem WordCount.ei : WordCount.Statement (.ei) := .inl rfl
theorem WordCount.di : WordCount.Statement (.di) := .inl rfl
theorem WordCount.sc : WordCount.Statement (.sc) := .inl rfl
theorem WordCount.rc : WordCount.Statement (.rc) := .inl rfl
theorem WordCount.cplc : WordCount.Statement (.cplc) := .inl rfl
theorem WordCount.bcond (c : Cond) (r : Byte) : WordCount.Statement (.bcond c r) := .inl rfl
theorem WordCount.bCadr (g : BitVec 4) (a : Word) : WordCount.Statement (.bCadr g a) := .inr rfl
theorem WordCount.blCadr (g : BitVec 4) (a : Word) : WordCount.Statement (.blCadr g a) := .inr rfl
theorem WordCount.bERn (n : RegNum) : WordCount.Statement (.bERn n) := .inl rfl
theorem WordCount.blERn (n : RegNum) : WordCount.Statement (.blERn n) := .inl rfl
theorem WordCount.rt : WordCount.Statement (.rt) := .inl rfl
theorem WordCount.rti : WordCount.Statement (.rti) := .inl rfl
theorem WordCount.swi (k : BitVec 6) : WordCount.Statement (.swi k) := .inl rfl
theorem WordCount.brk : WordCount.Statement (.brk) := .inl rfl
theorem WordCount.mulERnRm (n m : RegNum) : WordCount.Statement (.mulERnRm n m) := .inl rfl
theorem WordCount.divERnRm (n m : RegNum) : WordCount.Statement (.divERnRm n m) := .inl rfl
theorem WordCount.negRn (n : RegNum) : WordCount.Statement (.negRn n) := .inl rfl
theorem WordCount.daaRn (n : RegNum) : WordCount.Statement (.daaRn n) := .inl rfl
theorem WordCount.dasRn (n : RegNum) : WordCount.Statement (.dasRn n) := .inl rfl
theorem WordCount.extbwER0 : WordCount.Statement (.extbwER0) := .inl rfl
theorem WordCount.extbwER2 : WordCount.Statement (.extbwER2) := .inl rfl
theorem WordCount.extbwER4 : WordCount.Statement (.extbwER4) := .inl rfl
theorem WordCount.extbwER6 : WordCount.Statement (.extbwER6) := .inl rfl
theorem WordCount.extbwER8 : WordCount.Statement (.extbwER8) := .inl rfl
theorem WordCount.extbwER10 : WordCount.Statement (.extbwER10) := .inl rfl
theorem WordCount.extbwER12 : WordCount.Statement (.extbwER12) := .inl rfl
theorem WordCount.extbwER14 : WordCount.Statement (.extbwER14) := .inl rfl
theorem WordCount.incEA : WordCount.Statement (.incEA) := .inl rfl
theorem WordCount.decEA : WordCount.Statement (.decEA) := .inl rfl
theorem WordCount.sbRn (n : RegNum) (b : BitVec 3) : WordCount.Statement (.sbRn n b) := .inl rfl
theorem WordCount.sbDbitadr (b : BitVec 3) (a : Word) : WordCount.Statement (.sbDbitadr b a) := .inr rfl
theorem WordCount.rbRn (n : RegNum) (b : BitVec 3) : WordCount.Statement (.rbRn n b) := .inl rfl
theorem WordCount.rbDbitadr (b : BitVec 3) (a : Word) : WordCount.Statement (.rbDbitadr b a) := .inr rfl
theorem WordCount.tbRn (n : RegNum) (b : BitVec 3) : WordCount.Statement (.tbRn n b) := .inl rfl
theorem WordCount.tbDbitadr (b : BitVec 3) (a : Word) : WordCount.Statement (.tbDbitadr b a) := .inr rfl
theorem WordCount.nop : WordCount.Statement (.nop) := .inl rfl
theorem WordCount.dsrImm8 (imm : Byte) : WordCount.Statement (.dsrImm8 imm) := .inl rfl
theorem WordCount.dsrRd (d : RegNum) : WordCount.Statement (.dsrRd d) := .inl rfl
theorem WordCount.dsrDSR : WordCount.Statement (.dsrDSR) := .inl rfl

end Sys2Proof.Laws
end

