-- ==== Sys2Proof/Laws/Step.lean ====
section
/-! SUPPORT. What a fetch and a step can do, said once: later proofs cite these instead of unfolding them. -/

namespace Sys2Proof.Machine

/-- What a fetch can do: it answers the word at CSR:PC, and PC advances by 2 (20_memory.md R63). -/
theorem fetch16_next {s s1 : State} {w : Word} (h : fetch16 s = .ok (w, s1)) :
    dataRead s.mem s.csr 2 s.pc = .ok w ∧ s1 = s.setPc (s.pc + 2) := by
  simp only [fetch16, bind, Except.bind] at h
  split at h
  · cases h
  · rename_i v hv
    injection h with h
    injection h with h1 h2
    subst h1
    exact ⟨hv, h2.symm⟩

/-- A fetch from a segment that answers gives a word. -/
theorem fetch16_ok {s : State} (h : segmentAnswers s.csr) : ∃ w, fetch16 s = .ok (w, s.setPc (s.pc + 2)) := by
  obtain ⟨w, hw⟩ := dataRead_ok s.mem h 2 s.pc
  exact ⟨w, by simp only [fetch16, bind, Except.bind, hw]⟩

/-- The word a fetch answers is read from the two bytes at CSR:PC. -/
theorem fetch16_of_dataRead {s : State} {w : Word} (h : dataRead s.mem s.csr 2 s.pc = .ok w) :
    fetch16 s = .ok (w, s.setPc (s.pc + 2)) := by
  simp only [fetch16, bind, Except.bind, h]

/-- What fetching an instruction can do: one word that is a whole instruction, or one with hint TI and the word after it
(30_encoding.md R92, R93). -/
theorem fetchInstr_next {s s1 : State} {i : Instr} (h : fetchInstr s = .next (i, s1)) :
    (∃ w, dataRead s.mem s.csr 2 s.pc = .ok w ∧ decodeFirst w = .whole i ∧ s1 = s.setPc (s.pc + 2)) ∨
    (∃ w x f, dataRead s.mem s.csr 2 s.pc = .ok w ∧ decodeFirst w = .long f ∧ fetch16 (s.setPc (s.pc + 2)) = .ok (x, s1) ∧ i = f x) := by
  unfold fetchInstr at h
  split at h
  · cases h
  · rename_i w s2 hw
    obtain ⟨hr, rfl⟩ := fetch16_next hw
    split at h
    · cases h
    · rename_i i' hi
      injection h with h; injection h with h1 h2
      subst h1; subst h2
      exact .inl ⟨w, hr, hi, rfl⟩
    · rename_i f hf
      split at h
      · cases h
      · rename_i x s3 hx
        injection h with h; injection h with h1 h2
        subst h1; subst h2
        exact .inr ⟨w, x, f, hr, hf, hx, rfl⟩

/-- Fetching changes PC alone, and leaves its bit 0 clear. -/
theorem fetchInstr_state {s s1 : State} {i : Instr} (h : fetchInstr s = .next (i, s1)) :
    ∃ pc : Word, pc.getLsbD 0 = false ∧ s1 = { s with pc := pc } := by
  rcases fetchInstr_next h with ⟨w, -, -, rfl⟩ | ⟨w, x, f, -, -, hx, -⟩
  · exact ⟨_, pc_mask_even _, rfl⟩
  · obtain ⟨-, rfl⟩ := fetch16_next hx
    exact ⟨_, pc_mask_even _, rfl⟩

/-- What the instructions of a step can do: a prefix and then a shorter run, or the one instruction that ends the step with
no data segment in force (30_encoding.md R92, 47_misc.md R333). -/
theorem runStep_next {fuel : Nat} {s t : State} (h : runStep (fuel + 1) s = .next t) :
    ∃ i s1 s2, fetchInstr s = .next (i, s1) ∧ exec i s1 = .next s2 ∧
      ((i.isDsrPrefix = true ∧ runStep fuel s2 = .next t) ∨ (i.isDsrPrefix = false ∧ t = s2.setSeg 0)) := by
  rw [runStep] at h
  split at h
  · cases h
  · cases h
  · rename_i i s1 hi
    split at h
    · cases h
    · cases h
    · rename_i s2 hx
      refine ⟨i, s1, s2, hi, hx, ?_⟩
      split at h
      · rename_i hp; exact .inl ⟨hp, h⟩
      · rename_i hp
        injection h with h
        exact .inr ⟨by simpa using hp, h.symm⟩

theorem runStep_zero (s : State) : runStep 0 s = .fault .endlessPrefixes := rfl

theorem runStep_prefix {fuel : Nat} {s s1 s2 : State} {i : Instr} (hi : fetchInstr s = .next (i, s1)) (hx : exec i s1 = .next s2)
    (hp : i.isDsrPrefix = true) : runStep (fuel + 1) s = runStep fuel s2 := by
  rw [runStep, hi]; simp only [hx, hp, if_true]

theorem runStep_last {fuel : Nat} {s s1 : State} {i : Instr} (hi : fetchInstr s = .next (i, s1)) (hp : i.isDsrPrefix = false) :
    runStep (fuel + 1) s =
      match exec i s1 with
      | .fault f => .fault f
      | .refused r => .refused r
      | .next s2 => .next (s2.setSeg 0) := by
  rw [runStep, hi]
  simp only [hp]
  cases exec i s1 <;> simp

/-- An induction over the instructions of a step: what holds at its start, and is kept by fetching and by executing, holds
of the state in which it ends but for the data segment. -/
theorem runStep_induct {P : State → Prop} (hfetch : ∀ s s1 i, P s → fetchInstr s = .next (i, s1) → P s1)
    (hexec : ∀ i s s2, P s → exec i s = .next s2 → P s2) :
    ∀ {fuel : Nat} {s t : State}, P s → runStep fuel s = .next t → ∃ u, P u ∧ t = u.setSeg 0
  | 0, _, _, _, h => by cases h
  | fuel + 1, s, t, hs, h => by
    obtain ⟨i, s1, s2, hi, hx, h⟩ := runStep_next h
    have h2 := hexec i s1 s2 (hfetch s s1 i hs hi) hx
    rcases h with ⟨-, h⟩ | ⟨-, rfl⟩
    · exact runStep_induct hfetch hexec h2 h
    · exact ⟨s2, h2, rfl⟩

/-- What a step can do: it runs on a core that is not stopped, from a state with no data segment in force. -/
theorem step_next {s t : State} (h : step s = .next t) :
    s.stopped = false ∧ runStep maxStepInstrs ((s.setSeg 0).setSignal none) = .next t := by
  unfold step nextStep at h
  split at h
  · cases h
  · rename_i hs
    exact ⟨by simpa using hs, h⟩

theorem step_running {s : State} (h : s.stopped = false) : step s = runStep maxStepInstrs ((s.setSeg 0).setSignal none) := by
  simp [step, nextStep, h]

theorem step_stopped {s : State} (h : s.stopped = true) : step s = .fault .coreStopped := by
  simp [step, nextStep, h]

end Sys2Proof.Machine
end

