-- ==== Sys2Proof/Tests/Slice0.lean ====
section
/-! SUPPORT. The model's own tests: what WellFormed refuses, the decoding of words written out from the spec's encodings,
one step of each instruction with the result the spec's examples and vectors give (95_test_vectors.md, the Example of
each rule), the host operations, and for each statement with hypotheses a state and operands that meet them. -/

namespace Sys2Proof.Tests

open Sys2Proof Machine

/-! ## Helpers -/

/-- The default start state of the spec's vectors (95_test_vectors.md). -/
def base : State := (State.reset.setPc 0x0100).setSp 0x8E00

/-- Bytes stored from an absolute address upwards. -/
def withBytes (a : Nat) (bs : List Byte) (s : State) : State :=
  s.setMem (placeBytes s.mem (BitVec.ofNat 8 (a / 0x10000)) (BitVec.ofNat 16 a) bs)

/-- The bytes from an absolute address upwards. -/
def bytesAt (s : State) (a n : Nat) : List Byte := (List.range n).map fun k => Memory.read s.mem (a + k)

/-- Words placed at CSR:PC. -/
def withCode (ws : List Word) (s : State) : State := s.setMem (placeBytes s.mem s.csr s.pc (bytesOfWords ws))

/-- One step of these words, placed at CSR:PC of a start state, and a view of the next state. -/
def runs {α : Type} (ws : List Word) (start : State → State) (view : State → α) : Option α :=
  match step (withCode ws (start base)) with
  | .next t => some (view t)
  | _ => none

/-- One instruction from a start state and a view of the next state. -/
def after {α : Type} (i : Instr) (s : State) (view : State → α) : Option α :=
  match exec i s with
  | .next t => some (view t)
  | _ => none

/-- The decoder reads this instruction from these words and nothing is left over. -/
def decodesTo (ws : List Word) (i : Instr) : Bool :=
  match decode (bytesOfWords ws) with
  | .ok (j, []) => decide (i = j)
  | _ => false

/-- The decoder names this word as one of no row. -/
def refusesWord (w : Word) : Bool :=
  match decode (bytesOfWords [w, 0]) with
  | .error (.undefinedInstruction x) => decide (x = w)
  | _ => false

/-! ## What WellFormed refuses: an odd ER, an XR off its multiple of 4, a QR off its multiple of 8, in each position -/

theorem test_illFormed_addERnERm : Instr.wellFormed (.addERnERm 1 0) = false ∧ Instr.wellFormed (.addERnERm 0 1) = false := by decide
theorem test_illFormed_addERnImm7 : Instr.wellFormed (.addERnImm7 1 0) = false := by decide
theorem test_illFormed_movERnERm : Instr.wellFormed (.movERnERm 1 0) = false ∧ Instr.wellFormed (.movERnERm 0 1) = false := by decide
theorem test_illFormed_movERnImm7 : Instr.wellFormed (.movERnImm7 1 0) = false := by decide
theorem test_illFormed_cmpERnERm : Instr.wellFormed (.cmpERnERm 1 0) = false ∧ Instr.wellFormed (.cmpERnERm 0 1) = false := by decide
theorem test_illFormed_lERnEA : Instr.wellFormed (.lERnEA 1) = false := by decide
theorem test_illFormed_lERnEAInc : Instr.wellFormed (.lERnEAInc 1) = false := by decide
theorem test_illFormed_lERnERm : Instr.wellFormed (.lERnERm 1 0) = false ∧ Instr.wellFormed (.lERnERm 0 1) = false := by decide
theorem test_illFormed_lERnDisp16ERm : Instr.wellFormed (.lERnDisp16ERm 1 0 0) = false ∧ Instr.wellFormed (.lERnDisp16ERm 0 1 0) = false := by decide
theorem test_illFormed_lERnDisp6BP : Instr.wellFormed (.lERnDisp6BP 1 0) = false := by decide
theorem test_illFormed_lERnDisp6FP : Instr.wellFormed (.lERnDisp6FP 1 0) = false := by decide
theorem test_illFormed_lERnDadr : Instr.wellFormed (.lERnDadr 1 0) = false := by decide
theorem test_illFormed_lRnERm : Instr.wellFormed (.lRnERm 0 1) = false := by decide
theorem test_illFormed_lRnDisp16ERm : Instr.wellFormed (.lRnDisp16ERm 0 1 0) = false := by decide
theorem test_illFormed_lXRnEA : Instr.wellFormed (.lXRnEA 2) = false ∧ Instr.wellFormed (.lXRnEA 5) = false := by decide
theorem test_illFormed_lXRnEAInc : Instr.wellFormed (.lXRnEAInc 2) = false ∧ Instr.wellFormed (.lXRnEAInc 5) = false := by decide
theorem test_illFormed_lQRnEA : Instr.wellFormed (.lQRnEA 4) = false ∧ Instr.wellFormed (.lQRnEA 1) = false := by decide
theorem test_illFormed_lQRnEAInc : Instr.wellFormed (.lQRnEAInc 4) = false ∧ Instr.wellFormed (.lQRnEAInc 1) = false := by decide
theorem test_illFormed_stERnEA : Instr.wellFormed (.stERnEA 1) = false := by decide
theorem test_illFormed_stERnEAInc : Instr.wellFormed (.stERnEAInc 1) = false := by decide
theorem test_illFormed_stERnERm : Instr.wellFormed (.stERnERm 1 0) = false ∧ Instr.wellFormed (.stERnERm 0 1) = false := by decide
theorem test_illFormed_stERnDisp16ERm : Instr.wellFormed (.stERnDisp16ERm 1 0 0) = false ∧ Instr.wellFormed (.stERnDisp16ERm 0 1 0) = false := by decide
theorem test_illFormed_stERnDisp6BP : Instr.wellFormed (.stERnDisp6BP 1 0) = false := by decide
theorem test_illFormed_stERnDisp6FP : Instr.wellFormed (.stERnDisp6FP 1 0) = false := by decide
theorem test_illFormed_stERnDadr : Instr.wellFormed (.stERnDadr 1 0) = false := by decide
theorem test_illFormed_stRnERm : Instr.wellFormed (.stRnERm 0 1) = false := by decide
theorem test_illFormed_stRnDisp16ERm : Instr.wellFormed (.stRnDisp16ERm 0 1 0) = false := by decide
theorem test_illFormed_stXRnEA : Instr.wellFormed (.stXRnEA 2) = false ∧ Instr.wellFormed (.stXRnEA 5) = false := by decide
theorem test_illFormed_stXRnEAInc : Instr.wellFormed (.stXRnEAInc 2) = false ∧ Instr.wellFormed (.stXRnEAInc 5) = false := by decide
theorem test_illFormed_stQRnEA : Instr.wellFormed (.stQRnEA 4) = false ∧ Instr.wellFormed (.stQRnEA 1) = false := by decide
theorem test_illFormed_stQRnEAInc : Instr.wellFormed (.stQRnEAInc 4) = false ∧ Instr.wellFormed (.stQRnEAInc 1) = false := by decide
theorem test_illFormed_pushERn : Instr.wellFormed (.pushERn 1) = false := by decide
theorem test_illFormed_pushXRn : Instr.wellFormed (.pushXRn 2) = false ∧ Instr.wellFormed (.pushXRn 5) = false := by decide
theorem test_illFormed_pushQRn : Instr.wellFormed (.pushQRn 4) = false ∧ Instr.wellFormed (.pushQRn 1) = false := by decide
theorem test_illFormed_popERn : Instr.wellFormed (.popERn 1) = false := by decide
theorem test_illFormed_popXRn : Instr.wellFormed (.popXRn 2) = false ∧ Instr.wellFormed (.popXRn 5) = false := by decide
theorem test_illFormed_popQRn : Instr.wellFormed (.popQRn 4) = false ∧ Instr.wellFormed (.popQRn 1) = false := by decide
theorem test_illFormed_movELRERm : Instr.wellFormed (.movELRERm 1) = false := by decide
theorem test_illFormed_movERnELR : Instr.wellFormed (.movERnELR 1) = false := by decide
theorem test_illFormed_movERnSP : Instr.wellFormed (.movERnSP 1) = false := by decide
theorem test_illFormed_movSPERm : Instr.wellFormed (.movSPERm 1) = false := by decide
theorem test_illFormed_leaERm : Instr.wellFormed (.leaERm 1) = false := by decide
theorem test_illFormed_leaDisp16ERm : Instr.wellFormed (.leaDisp16ERm 1 0) = false := by decide
theorem test_illFormed_bERn : Instr.wellFormed (.bERn 1) = false := by decide
theorem test_illFormed_blERn : Instr.wellFormed (.blERn 1) = false := by decide
theorem test_illFormed_mulERnRm : Instr.wellFormed (.mulERnRm 1 0) = false := by decide
theorem test_illFormed_divERnRm : Instr.wellFormed (.divERnRm 1 0) = false := by decide

/-- Every register of a legal number is accepted. -/
theorem test_wellFormed : Instr.wellFormed (.addERnERm 14 12) = true ∧ Instr.wellFormed (.lXRnEA 12) = true ∧ Instr.wellFormed (.lQRnEA 8) = true := by
  decide

/-! ## Decoding: one word of each row, its fields written into the bits of the row's encoding in spec/opcode_table.json -/

theorem test_decode_addRnRm : decodesTo [0b1000_1011_0110_0001] (.addRnRm 11 6) = true := by decide
theorem test_decode_addRnImm8 : decodesTo [0b0001_1011_1010_0111] (.addRnImm8 11 0xA7) = true := by decide
theorem test_decode_addERnERm : decodesTo [0b1111_1010_0110_0110] (.addERnERm 10 6) = true := by decide
theorem test_decode_addERnImm7 : decodesTo [0b1110_1010_1101_0011] (.addERnImm7 10 0x53) = true := by decide
theorem test_decode_addcRnRm : decodesTo [0b1000_1011_0110_0110] (.addcRnRm 11 6) = true := by decide
theorem test_decode_addcRnImm8 : decodesTo [0b0110_1011_1010_0111] (.addcRnImm8 11 0xA7) = true := by decide
theorem test_decode_andRnRm : decodesTo [0b1000_1011_0110_0010] (.andRnRm 11 6) = true := by decide
theorem test_decode_andRnImm8 : decodesTo [0b0010_1011_1010_0111] (.andRnImm8 11 0xA7) = true := by decide
theorem test_decode_cmpRnRm : decodesTo [0b1000_1011_0110_0111] (.cmpRnRm 11 6) = true := by decide
theorem test_decode_cmpRnImm8 : decodesTo [0b0111_1011_1010_0111] (.cmpRnImm8 11 0xA7) = true := by decide
theorem test_decode_cmpcRnRm : decodesTo [0b1000_1011_0110_0101] (.cmpcRnRm 11 6) = true := by decide
theorem test_decode_cmpcRnImm8 : decodesTo [0b0101_1011_1010_0111] (.cmpcRnImm8 11 0xA7) = true := by decide
theorem test_decode_movERnERm : decodesTo [0b1111_1010_0110_0101] (.movERnERm 10 6) = true := by decide
theorem test_decode_movERnImm7 : decodesTo [0b1110_1010_0101_0011] (.movERnImm7 10 0x53) = true := by decide
theorem test_decode_movRnRm : decodesTo [0b1000_1011_0110_0000] (.movRnRm 11 6) = true := by decide
theorem test_decode_movRnImm8 : decodesTo [0b0000_1011_1010_0111] (.movRnImm8 11 0xA7) = true := by decide
theorem test_decode_orRnRm : decodesTo [0b1000_1011_0110_0011] (.orRnRm 11 6) = true := by decide
theorem test_decode_orRnImm8 : decodesTo [0b0011_1011_1010_0111] (.orRnImm8 11 0xA7) = true := by decide
theorem test_decode_xorRnRm : decodesTo [0b1000_1011_0110_0100] (.xorRnRm 11 6) = true := by decide
theorem test_decode_xorRnImm8 : decodesTo [0b0100_1011_1010_0111] (.xorRnImm8 11 0xA7) = true := by decide
theorem test_decode_cmpERnERm : decodesTo [0b1111_1010_0110_0111] (.cmpERnERm 10 6) = true := by decide
theorem test_decode_subRnRm : decodesTo [0b1000_1011_0110_1000] (.subRnRm 11 6) = true := by decide
theorem test_decode_subcRnRm : decodesTo [0b1000_1011_0110_1001] (.subcRnRm 11 6) = true := by decide
theorem test_decode_sllRnRm : decodesTo [0b1000_1011_0110_1010] (.sllRnRm 11 6) = true := by decide
theorem test_decode_sllRnWidth : decodesTo [0b1001_1011_0110_1010] (.sllRnWidth 11 0x6) = true := by decide
theorem test_decode_sllcRnRm : decodesTo [0b1000_1011_0110_1011] (.sllcRnRm 11 6) = true := by decide
theorem test_decode_sllcRnWidth : decodesTo [0b1001_1011_0110_1011] (.sllcRnWidth 11 0x6) = true := by decide
theorem test_decode_sraRnRm : decodesTo [0b1000_1011_0110_1110] (.sraRnRm 11 6) = true := by decide
theorem test_decode_sraRnWidth : decodesTo [0b1001_1011_0110_1110] (.sraRnWidth 11 0x6) = true := by decide
theorem test_decode_srlRnRm : decodesTo [0b1000_1011_0110_1100] (.srlRnRm 11 6) = true := by decide
theorem test_decode_srlRnWidth : decodesTo [0b1001_1011_0110_1100] (.srlRnWidth 11 0x6) = true := by decide
theorem test_decode_srlcRnRm : decodesTo [0b1000_1011_0110_1101] (.srlcRnRm 11 6) = true := by decide
theorem test_decode_srlcRnWidth : decodesTo [0b1001_1011_0110_1101] (.srlcRnWidth 11 0x6) = true := by decide
theorem test_decode_lERnEA : decodesTo [0b1001_1010_0011_0010] (.lERnEA 10) = true := by decide
theorem test_decode_lERnEAInc : decodesTo [0b1001_1010_0101_0010] (.lERnEAInc 10) = true := by decide
theorem test_decode_lERnERm : decodesTo [0b1001_1010_0110_0010] (.lERnERm 10 6) = true := by decide
theorem test_decode_lERnDisp16ERm : decodesTo [0b1010_1010_0110_1000, 0x9AC5] (.lERnDisp16ERm 10 6 0x9AC5) = true := by decide
theorem test_decode_lERnDisp6BP : decodesTo [0b1011_1010_0010_1101] (.lERnDisp6BP 10 0x2D) = true := by decide
theorem test_decode_lERnDisp6FP : decodesTo [0b1011_1010_0110_1101] (.lERnDisp6FP 10 0x2D) = true := by decide
theorem test_decode_lERnDadr : decodesTo [0b1001_1010_0001_0010, 0x9AC5] (.lERnDadr 10 0x9AC5) = true := by decide
theorem test_decode_lRnEA : decodesTo [0b1001_1011_0011_0000] (.lRnEA 11) = true := by decide
theorem test_decode_lRnEAInc : decodesTo [0b1001_1011_0101_0000] (.lRnEAInc 11) = true := by decide
theorem test_decode_lRnERm : decodesTo [0b1001_1011_0110_0000] (.lRnERm 11 6) = true := by decide
theorem test_decode_lRnDisp16ERm : decodesTo [0b1001_1011_0110_1000, 0x9AC5] (.lRnDisp16ERm 11 6 0x9AC5) = true := by decide
theorem test_decode_lRnDisp6BP : decodesTo [0b1101_1011_0010_1101] (.lRnDisp6BP 11 0x2D) = true := by decide
theorem test_decode_lRnDisp6FP : decodesTo [0b1101_1011_0110_1101] (.lRnDisp6FP 11 0x2D) = true := by decide
theorem test_decode_lRnDadr : decodesTo [0b1001_1011_0001_0000, 0x9AC5] (.lRnDadr 11 0x9AC5) = true := by decide
theorem test_decode_lXRnEA : decodesTo [0b1001_1000_0011_0100] (.lXRnEA 8) = true := by decide
theorem test_decode_lXRnEAInc : decodesTo [0b1001_1000_0101_0100] (.lXRnEAInc 8) = true := by decide
theorem test_decode_lQRnEA : decodesTo [0b1001_1000_0011_0110] (.lQRnEA 8) = true := by decide
theorem test_decode_lQRnEAInc : decodesTo [0b1001_1000_0101_0110] (.lQRnEAInc 8) = true := by decide
theorem test_decode_stERnEA : decodesTo [0b1001_1010_0011_0011] (.stERnEA 10) = true := by decide
theorem test_decode_stERnEAInc : decodesTo [0b1001_1010_0101_0011] (.stERnEAInc 10) = true := by decide
theorem test_decode_stERnERm : decodesTo [0b1001_1010_0110_0011] (.stERnERm 10 6) = true := by decide
theorem test_decode_stERnDisp16ERm : decodesTo [0b1010_1010_0110_1001, 0x9AC5] (.stERnDisp16ERm 10 6 0x9AC5) = true := by decide
theorem test_decode_stERnDisp6BP : decodesTo [0b1011_1010_1010_1101] (.stERnDisp6BP 10 0x2D) = true := by decide
theorem test_decode_stERnDisp6FP : decodesTo [0b1011_1010_1110_1101] (.stERnDisp6FP 10 0x2D) = true := by decide
theorem test_decode_stERnDadr : decodesTo [0b1001_1010_0001_0011, 0x9AC5] (.stERnDadr 10 0x9AC5) = true := by decide
theorem test_decode_stRnEA : decodesTo [0b1001_1011_0011_0001] (.stRnEA 11) = true := by decide
theorem test_decode_stRnEAInc : decodesTo [0b1001_1011_0101_0001] (.stRnEAInc 11) = true := by decide
theorem test_decode_stRnERm : decodesTo [0b1001_1011_0110_0001] (.stRnERm 11 6) = true := by decide
theorem test_decode_stRnDisp16ERm : decodesTo [0b1001_1011_0110_1001, 0x9AC5] (.stRnDisp16ERm 11 6 0x9AC5) = true := by decide
theorem test_decode_stRnDisp6BP : decodesTo [0b1101_1011_1010_1101] (.stRnDisp6BP 11 0x2D) = true := by decide
theorem test_decode_stRnDisp6FP : decodesTo [0b1101_1011_1110_1101] (.stRnDisp6FP 11 0x2D) = true := by decide
theorem test_decode_stRnDadr : decodesTo [0b1001_1011_0001_0001, 0x9AC5] (.stRnDadr 11 0x9AC5) = true := by decide
theorem test_decode_stXRnEA : decodesTo [0b1001_1000_0011_0101] (.stXRnEA 8) = true := by decide
theorem test_decode_stXRnEAInc : decodesTo [0b1001_1000_0101_0101] (.stXRnEAInc 8) = true := by decide
theorem test_decode_stQRnEA : decodesTo [0b1001_1000_0011_0111] (.stQRnEA 8) = true := by decide
theorem test_decode_stQRnEAInc : decodesTo [0b1001_1000_0101_0111] (.stQRnEAInc 8) = true := by decide
theorem test_decode_pushRn : decodesTo [0b1111_1011_0100_1110] (.pushRn 11) = true := by decide
theorem test_decode_pushERn : decodesTo [0b1111_1010_0101_1110] (.pushERn 10) = true := by decide
theorem test_decode_pushXRn : decodesTo [0b1111_1000_0110_1110] (.pushXRn 8) = true := by decide
theorem test_decode_pushQRn : decodesTo [0b1111_1000_0111_1110] (.pushQRn 8) = true := by decide
theorem test_decode_pushList : decodesTo [0b1111_1011_1100_1110] (.pushList true false true true) = true := by decide
theorem test_decode_popRn : decodesTo [0b1111_1011_0000_1110] (.popRn 11) = true := by decide
theorem test_decode_popERn : decodesTo [0b1111_1010_0001_1110] (.popERn 10) = true := by decide
theorem test_decode_popXRn : decodesTo [0b1111_1000_0010_1110] (.popXRn 8) = true := by decide
theorem test_decode_popQRn : decodesTo [0b1111_1000_0011_1110] (.popQRn 8) = true := by decide
theorem test_decode_popList : decodesTo [0b1111_1011_1000_1110] (.popList true false true true) = true := by decide
theorem test_decode_movECSRRm : decodesTo [0b1010_0000_0110_1111] (.movECSRRm 6) = true := by decide
theorem test_decode_movEPSWRm : decodesTo [0b1010_0000_0110_1100] (.movEPSWRm 6) = true := by decide
theorem test_decode_movELRERm : decodesTo [0b1010_0110_0000_1101] (.movELRERm 6) = true := by decide
theorem test_decode_movERnELR : decodesTo [0b1010_1010_0000_0101] (.movERnELR 10) = true := by decide
theorem test_decode_movRnEPSW : decodesTo [0b1010_1011_0000_0100] (.movRnEPSW 11) = true := by decide
theorem test_decode_movPSWRm : decodesTo [0b1010_0000_0110_1011] (.movPSWRm 6) = true := by decide
theorem test_decode_movPSWImm8 : decodesTo [0b1110_1001_1010_0111] (.movPSWImm8 0xA7) = true := by decide
theorem test_decode_movRnECSR : decodesTo [0b1010_1011_0000_0111] (.movRnECSR 11) = true := by decide
theorem test_decode_movRnPSW : decodesTo [0b1010_1011_0000_0011] (.movRnPSW 11) = true := by decide
theorem test_decode_movERnSP : decodesTo [0b1010_1010_0001_1010] (.movERnSP 10) = true := by decide
theorem test_decode_movSPERm : decodesTo [0b1010_0001_0110_1010] (.movSPERm 6) = true := by decide
theorem test_decode_addSPImm8 : decodesTo [0b1110_0001_1010_0111] (.addSPImm8 0xA7) = true := by decide
theorem test_decode_leaERm : decodesTo [0b1111_0000_0110_1010] (.leaERm 6) = true := by decide
theorem test_decode_leaDisp16ERm : decodesTo [0b1111_0000_0110_1011, 0x9AC5] (.leaDisp16ERm 6 0x9AC5) = true := by decide
theorem test_decode_leaDadr : decodesTo [0b1111_0000_0000_1100, 0x9AC5] (.leaDadr 0x9AC5) = true := by decide
theorem test_decode_ei : decodesTo [0b1110_1101_0000_1000] (.ei) = true := by decide
theorem test_decode_di : decodesTo [0b1110_1011_1111_0111] (.di) = true := by decide
theorem test_decode_sc : decodesTo [0b1110_1101_1000_0000] (.sc) = true := by decide
theorem test_decode_rc : decodesTo [0b1110_1011_0111_1111] (.rc) = true := by decide
theorem test_decode_cplc : decodesTo [0b1111_1110_1100_1111] (.cplc) = true := by decide
theorem test_decode_bcond : decodesTo [0b1100_0101_1101_0011] (.bcond .lts 0xD3) = true := by decide
theorem test_decode_bCadr : decodesTo [0b1111_1001_0000_0000, 0x9AC5] (.bCadr 0x9 0x9AC5) = true := by decide
theorem test_decode_blCadr : decodesTo [0b1111_1001_0000_0001, 0x9AC5] (.blCadr 0x9 0x9AC5) = true := by decide
theorem test_decode_bERn : decodesTo [0b1111_0000_1010_0010] (.bERn 10) = true := by decide
theorem test_decode_blERn : decodesTo [0b1111_0000_1010_0011] (.blERn 10) = true := by decide
theorem test_decode_rt : decodesTo [0b1111_1110_0001_1111] (.rt) = true := by decide
theorem test_decode_rti : decodesTo [0b1111_1110_0000_1111] (.rti) = true := by decide
theorem test_decode_swi : decodesTo [0b1110_0101_0010_1001] (.swi 0x29) = true := by decide
theorem test_decode_brk : decodesTo [0b1111_1111_1111_1111] (.brk) = true := by decide
theorem test_decode_mulERnRm : decodesTo [0b1111_1010_0110_0100] (.mulERnRm 10 6) = true := by decide
theorem test_decode_divERnRm : decodesTo [0b1111_1010_0110_1001] (.divERnRm 10 6) = true := by decide
theorem test_decode_negRn : decodesTo [0b1000_1011_0101_1111] (.negRn 11) = true := by decide
theorem test_decode_daaRn : decodesTo [0b1000_1011_0001_1111] (.daaRn 11) = true := by decide
theorem test_decode_dasRn : decodesTo [0b1000_1011_0011_1111] (.dasRn 11) = true := by decide
theorem test_decode_extbwER0 : decodesTo [0b1000_0001_0000_1111] (.extbwER0) = true := by decide
theorem test_decode_extbwER2 : decodesTo [0b1000_0011_0010_1111] (.extbwER2) = true := by decide
theorem test_decode_extbwER4 : decodesTo [0b1000_0101_0100_1111] (.extbwER4) = true := by decide
theorem test_decode_extbwER6 : decodesTo [0b1000_0111_0110_1111] (.extbwER6) = true := by decide
theorem test_decode_extbwER8 : decodesTo [0b1000_1001_1000_1111] (.extbwER8) = true := by decide
theorem test_decode_extbwER10 : decodesTo [0b1000_1011_1010_1111] (.extbwER10) = true := by decide
theorem test_decode_extbwER12 : decodesTo [0b1000_1101_1100_1111] (.extbwER12) = true := by decide
theorem test_decode_extbwER14 : decodesTo [0b1000_1111_1110_1111] (.extbwER14) = true := by decide
theorem test_decode_incEA : decodesTo [0b1111_1110_0010_1111] (.incEA) = true := by decide
theorem test_decode_decEA : decodesTo [0b1111_1110_0011_1111] (.decEA) = true := by decide
theorem test_decode_sbRn : decodesTo [0b1010_1011_0101_0000] (.sbRn 11 0x5) = true := by decide
theorem test_decode_sbDbitadr : decodesTo [0b1010_0000_1101_0000, 0x9AC5] (.sbDbitadr 0x5 0x9AC5) = true := by decide
theorem test_decode_rbRn : decodesTo [0b1010_1011_0101_0010] (.rbRn 11 0x5) = true := by decide
theorem test_decode_rbDbitadr : decodesTo [0b1010_0000_1101_0010, 0x9AC5] (.rbDbitadr 0x5 0x9AC5) = true := by decide
theorem test_decode_tbRn : decodesTo [0b1010_1011_0101_0001] (.tbRn 11 0x5) = true := by decide
theorem test_decode_tbDbitadr : decodesTo [0b1010_0000_1101_0001, 0x9AC5] (.tbDbitadr 0x5 0x9AC5) = true := by decide
theorem test_decode_nop : decodesTo [0b1111_1110_1000_1111] (.nop) = true := by decide
theorem test_decode_dsrImm8 : decodesTo [0b1110_0011_1010_0111] (.dsrImm8 0xA7) = true := by decide
theorem test_decode_dsrRd : decodesTo [0b1001_0000_1011_1111] (.dsrRd 11) = true := by decide
theorem test_decode_dsrDSR : decodesTo [0b1111_1110_1001_1111] (.dsrDSR) = true := by decide

/-- Words of no row: R122 and vectors M34 to M36. -/
theorem test_decode_illegal : refusesWord 0x800F = true ∧ refusesWord 0xA00E = true ∧ refusesWord 0xE580 = true ∧
    refusesWord 0x9016 = true ∧ refusesWord 0xFFFE = true := by decide

/-- Condition number 15 (R281). -/
theorem test_decode_bcond_al15 : decodesTo [0b1100_1111_0000_0001] (.bcond .al15 0x01) = true := by decide

/-- The table's numbering: the second word is bits 31:16 (R90). -/
theorem test_decodeTableWord : decodeTableWord 32 0x1234F001 = some (.blCadr 0 0x1234) ∧ decodeTableWord 16 0xF001 = some (.blCadr 0 0) ∧
    decodeTableWord 16 0x800F = none := by decide

/-- The first step after reset runs the instruction placed by withFetchWord. -/
theorem test_withFetchWord : (match step (State.reset.withFetchWord 32 0x1234F001) with
    | .next t => some (t.pc, t.lr)
    | _ => none) = some (0x1234, 0x0004) := by decide

/-! ## One step of each instruction -/

/-- Vector A3 (95_test_vectors.md): ADD R1,R2 both negative. -/
theorem test_addRnRm_A3 :
    runs [0x8121] (fun s => s |>.setR 1 0x80 |>.setR 2 0x80) (fun t => (t.r 1, t.pc, t.psw)) = some (0x00, 0x0102, 0xD0) := by
  decide

/-- Vector A4 (95_test_vectors.md): ADD R3,R3 same register. -/
theorem test_addRnRm_A4 :
    runs [0x8331] (fun s => s |>.setR 3 0x48) (fun t => (t.r 3, t.pc, t.psw)) = some (0x90, 0x0102, 0x34) := by
  decide

/-- Vector A1 (95_test_vectors.md): ADD R0,#1 (source example). -/
theorem test_addRnImm8_A1 :
    runs [0x1001] (fun s => s |>.setR 0 0x7F) (fun t => (t.r 0, t.pc, t.psw)) = some (0x80, 0x0102, 0x34) := by
  decide

/-- Vector A2 (95_test_vectors.md): ADD R0,#1 carry and zero. -/
theorem test_addRnImm8_A2 :
    runs [0x1001] (fun s => s |>.setR 0 0xFF) (fun t => (t.r 0, t.pc, t.psw)) = some (0x00, 0x0102, 0xC4) := by
  decide

/-- Vector A21 (95_test_vectors.md): ADD ER0,ER2 overflow. -/
theorem test_addERnERm_A21 :
    runs [0xF026] (fun s => s |>.setEr 0 0x7FFF |>.setEr 2 0x0001) (fun t => (t.er 0, t.pc, t.psw)) = some (0x8000, 0x0102, 0x34) := by
  decide

/-- Vector A22 (95_test_vectors.md): ADD ER0,ER2 carry zero. -/
theorem test_addERnERm_A22 :
    runs [0xF026] (fun s => s |>.setEr 0 0xFFFF |>.setEr 2 0x0001) (fun t => (t.er 0, t.pc, t.psw)) = some (0x0000, 0x0102, 0xC4) := by
  decide

/-- Vector A23 (95_test_vectors.md): ADD ER4,#-1. -/
theorem test_addERnImm7_A23 :
    runs [0xE4FF] (fun s => s |>.setEr 4 0x0000) (fun t => (t.er 4, t.pc, t.psw)) = some (0xFFFF, 0x0102, 0x20) := by
  decide

/-- Vector A24 (95_test_vectors.md): ADD ER4,#63. -/
theorem test_addERnImm7_A24 :
    runs [0xE4BF] (fun s => s |>.setEr 4 0x0FC1) (fun t => (t.er 4, t.pc, t.psw)) = some (0x1000, 0x0102, 0x04) := by
  decide

/-- Vector A5 (95_test_vectors.md): ADDC R0,R1 carry in. -/
theorem test_addcRnRm_A5 :
    runs [0x8016] (fun s => s |>.setR 0 0xFF |>.setR 1 0x00 |>.setPsw 0x80) (fun t => (t.r 0, t.pc, t.psw)) = some (0x00, 0x0102, 0xC4) := by
  decide

/-- Vector A6 (95_test_vectors.md): ADDC R0,#0x0F half carry from carry in. -/
theorem test_addcRnImm8_A6 :
    runs [0x600F] (fun s => s |>.setR 0 0x00 |>.setPsw 0x80) (fun t => (t.r 0, t.pc, t.psw)) = some (0x10, 0x0102, 0x04) := by
  decide

/-- The example of R141. -/
theorem test_andRnRm_R141 :
    runs [0x8012] (fun s => s |>.setR 0 0xF0 |>.setR 1 0x3C) (fun t => (t.r 0, t.psw)) = some (0x30, 0x00) := by
  decide

/-- Vector A15 (95_test_vectors.md): AND R0,#0x0F keeps C OV HC. -/
theorem test_andRnImm8_A15 :
    runs [0x200F] (fun s => s |>.setR 0 0xF0 |>.setPsw 0x94) (fun t => (t.r 0, t.pc, t.psw)) = some (0x00, 0x0102, 0xD4) := by
  decide

/-- Vector A12 (95_test_vectors.md): CMP R4,R5 below. -/
theorem test_cmpRnRm_A12 :
    runs [0x8457] (fun s => s |>.setR 4 0x10 |>.setR 5 0x20) (fun t => (t.pc, t.psw)) = some (0x0102, 0xA0) := by
  decide

/-- Vector A11 (95_test_vectors.md): CMP R4,#0x10 equal. -/
theorem test_cmpRnImm8_A11 :
    runs [0x7410] (fun s => s |>.setR 4 0x10 |>.setPsw 0x08) (fun t => (t.pc, t.psw)) = some (0x0102, 0x48) := by
  decide

/-- Vector A14 (95_test_vectors.md): CMPC R0,R1 no borrow. -/
theorem test_cmpcRnRm_A14 :
    runs [0x8015] (fun s => s |>.setR 0 0x7F |>.setR 1 0xFF) (fun t => (t.pc, t.psw)) = some (0x0102, 0xB0) := by
  decide

/-- Vector A13 (95_test_vectors.md): CMPC R0,#0 with borrow. -/
theorem test_cmpcRnImm8_A13 :
    runs [0x5000] (fun s => s |>.setR 0 0x00 |>.setPsw 0x80) (fun t => (t.pc, t.psw)) = some (0x0102, 0xA4) := by
  decide

/-- Vector A28 (95_test_vectors.md): MOV ER6,ER8 zero. -/
theorem test_movERnERm_A28 :
    runs [0xF685] (fun s => s |>.setEr 6 0x1111 |>.setEr 8 0x0000 |>.setPsw 0x80) (fun t => (t.er 6, t.pc, t.psw)) = some (0x0000, 0x0102, 0xC0) := by
  decide

/-- Vector A27 (95_test_vectors.md): MOV ER6,#-64. -/
theorem test_movERnImm7_A27 :
    runs [0xE640] (fun s => s |>.setEr 6 0x1111) (fun t => (t.er 6, t.pc, t.psw)) = some (0xFFC0, 0x0102, 0x20) := by
  decide

/-- Vector A20 (95_test_vectors.md): MOV R2,R3 negative. -/
theorem test_movRnRm_A20 :
    runs [0x8230] (fun s => s |>.setR 3 0x80) (fun t => (t.r 2, t.pc, t.psw)) = some (0x80, 0x0102, 0x20) := by
  decide

/-- Vector A19 (95_test_vectors.md): MOV R15,#0. -/
theorem test_movRnImm8_A19 :
    runs [0x0F00] (fun s => s |>.setR 15 0x33 |>.setPsw 0xA0) (fun t => (t.r 15, t.pc, t.psw)) = some (0x00, 0x0102, 0xC0) := by
  decide

/-- Vector M38 (95_test_vectors.md): MOV R0,#0 is the all-zero word. -/
theorem test_movRnImm8_M38 :
    runs [0x0000] (fun s => s |>.setR 0 0x99 |>.setPsw 0x80) (fun t => (t.r 0, t.pc, t.psw)) = some (0x00, 0x0102, 0xC0) := by
  decide

/-- Vector A16 (95_test_vectors.md): OR R0,R1. -/
theorem test_orRnRm_A16 :
    runs [0x8013] (fun s => s |>.setR 0 0x80 |>.setR 1 0x01 |>.setPsw 0x40) (fun t => (t.r 0, t.pc, t.psw)) = some (0x81, 0x0102, 0x20) := by
  decide

/-- The example of R152. -/
theorem test_orRnImm8_R152 :
    runs [0x3300] (fun s => s |>.setR 3 0x00) (fun t => (t.r 3, t.psw)) = some (0x00, 0x40) := by
  decide

/-- Vector A17 (95_test_vectors.md): XOR R7,R7 clears. -/
theorem test_xorRnRm_A17 :
    runs [0x8774] (fun s => s |>.setR 7 0xA5) (fun t => (t.r 7, t.pc, t.psw)) = some (0x00, 0x0102, 0x40) := by
  decide

/-- Vector A18 (95_test_vectors.md): XOR R0,#0xFF. -/
theorem test_xorRnImm8_A18 :
    runs [0x40FF] (fun s => s |>.setR 0 0x0F) (fun t => (t.r 0, t.pc, t.psw)) = some (0xF0, 0x0102, 0x20) := by
  decide

/-- Vector A25 (95_test_vectors.md): CMP ER0,ER2 equal. -/
theorem test_cmpERnERm_A25 :
    runs [0xF027] (fun s => s |>.setEr 0 0x1234 |>.setEr 2 0x1234) (fun t => (t.pc, t.psw)) = some (0x0102, 0x40) := by
  decide

/-- Vector A26 (95_test_vectors.md): CMP ER0,ER2 signed. -/
theorem test_cmpERnERm_A26 :
    runs [0xF027] (fun s => s |>.setEr 0 0x8000 |>.setEr 2 0x0001) (fun t => (t.pc, t.psw)) = some (0x0102, 0x14) := by
  decide

/-- Vector A7 (95_test_vectors.md): SUB R0,R1 borrow. -/
theorem test_subRnRm_A7 :
    runs [0x8018] (fun s => s |>.setR 0 0x00 |>.setR 1 0x01) (fun t => (t.r 0, t.pc, t.psw)) = some (0xFF, 0x0102, 0xA4) := by
  decide

/-- Vector A8 (95_test_vectors.md): SUB R0,R1 signed overflow. -/
theorem test_subRnRm_A8 :
    runs [0x8018] (fun s => s |>.setR 0 0x80 |>.setR 1 0x01) (fun t => (t.r 0, t.pc, t.psw)) = some (0x7F, 0x0102, 0x14) := by
  decide

/-- Vector A9 (95_test_vectors.md): SUBC R0,R1 borrow in makes zero. -/
theorem test_subcRnRm_A9 :
    runs [0x8019] (fun s => s |>.setR 0 0x05 |>.setR 1 0x04 |>.setPsw 0x80) (fun t => (t.r 0, t.pc, t.psw)) = some (0x00, 0x0102, 0x40) := by
  decide

/-- Vector A10 (95_test_vectors.md): SUBC R0,R1 borrow chain. -/
theorem test_subcRnRm_A10 :
    runs [0x8019] (fun s => s |>.setR 0 0x00 |>.setR 1 0xFF |>.setPsw 0x80) (fun t => (t.pc, t.psw)) = some (0x0102, 0xC4) := by
  decide

/-- Vector S4 (95_test_vectors.md): SLL R0,R1 count = R1[2:0]. -/
theorem test_sllRnRm_S4 :
    runs [0x801A] (fun s => s |>.setR 0 0x01 |>.setR 1 0xFB) (fun t => (t.r 0, t.pc, t.psw)) = some (0x08, 0x0102, 0x00) := by
  decide

/-- Vector S2 (95_test_vectors.md): SLL R0,#7. -/
theorem test_sllRnWidth_S2 :
    runs [0x907A] (fun s => s |>.setR 0 0x03) (fun t => (t.r 0, t.pc, t.psw, t.cs)) = some (0x80, 0x0102, 0x80, true) := by
  decide

/-- Vector S3 (95_test_vectors.md): SLL R0,#0 no effect. -/
theorem test_sllRnWidth_S3 :
    runs [0x900A] (fun s => s |>.setR 0 0x81 |>.setPsw 0x80 |>.setCs true) (fun t => (t.pc, t.psw)) = some (0x0102, 0x80) := by
  decide

/-- Vector S11 (95_test_vectors.md): SLLC R1,R2 by 3. -/
theorem test_sllcRnRm_S11 :
    runs [0x812B] (fun s => s |>.setR 1 0xA5 |>.setR 2 0x03 |>.setCs true) (fun t => (t.r 1, t.pc, t.psw)) = some (0x2E, 0x0102, 0x80) := by
  decide

/-- Vector S9 (95_test_vectors.md): SLLC R1,#1 takes CS not C. -/
theorem test_sllcRnWidth_S9 :
    runs [0x911B] (fun s => s |>.setR 1 0x00 |>.setCs true |>.setPsw 0x00) (fun t => (t.r 1, t.pc, t.psw, t.cs)) = some (0x01, 0x0102, 0x00, false) := by
  decide

/-- Vector S10 (95_test_vectors.md): SLLC R1,#1 C set but CS clear. -/
theorem test_sllcRnWidth_S10 :
    runs [0x911B] (fun s => s |>.setR 1 0x00 |>.setCs false |>.setPsw 0x80) (fun t => (t.pc, t.psw)) = some (0x0102, 0x00) := by
  decide

/-- Vector S8 (95_test_vectors.md): SRA R0,R1 positive. -/
theorem test_sraRnRm_S8 :
    runs [0x801E] (fun s => s |>.setR 0 0x42 |>.setR 1 0x02) (fun t => (t.r 0, t.pc, t.psw, t.cs)) = some (0x10, 0x0102, 0x80, true) := by
  decide

/-- Vector S7 (95_test_vectors.md): SRA R0,#7. -/
theorem test_sraRnWidth_S7 :
    runs [0x907E] (fun s => s |>.setR 0 0x80) (fun t => (t.r 0, t.pc, t.psw)) = some (0xFF, 0x0102, 0x00) := by
  decide

/-- Vector S6 (95_test_vectors.md): SRL R0,R1 count 8 -> 0. -/
theorem test_srlRnRm_S6 :
    runs [0x801C] (fun s => s |>.setR 0 0x81 |>.setR 1 0x08 |>.setPsw 0x80) (fun t => (t.pc, t.psw)) = some (0x0102, 0x80) := by
  decide

/-- Vector S5 (95_test_vectors.md): SRL R0,#1. -/
theorem test_srlRnWidth_S5 :
    runs [0x901C] (fun s => s |>.setR 0 0x81) (fun t => (t.r 0, t.pc, t.psw, t.cs)) = some (0x40, 0x0102, 0x80, true) := by
  decide

/-- Vector S13 (95_test_vectors.md): SRLC R0,R1 by 4. -/
theorem test_srlcRnRm_S13 :
    runs [0x801D] (fun s => s |>.setR 0 0xA5 |>.setR 1 0x04 |>.setCs false) (fun t => (t.r 0, t.pc, t.psw)) = some (0xAA, 0x0102, 0x00) := by
  decide

/-- Vector S12 (95_test_vectors.md): SRLC R0,#1. -/
theorem test_srlcRnWidth_S12 :
    runs [0x901D] (fun s => s |>.setR 0 0x01 |>.setCs true) (fun t => (t.r 0, t.pc, t.psw)) = some (0x80, 0x0102, 0x80) := by
  decide

/-- The example of R189. -/
theorem test_lERnEA_R189 :
    runs [0x9232] (fun s => s |>.setEa 0x8000 |>.setPsw 0x80 |> withBytes 0x8000 [0x11, 0x22, 0x33]) (fun t => (t.er 2, t.psw)) = some (0x2211, 0x80) := by
  decide

/-- Vector L16 (95_test_vectors.md): L ER0,[EA+] at 0xFFFF wraps. -/
theorem test_lERnEAInc_L16 :
    runs [0x9052] (fun s => s |>.setEa 0xFFFF |> withBytes 0xFFFF [0xAA] |> withBytes 0x0 [0xBB]) (fun t => (t.er 0, t.pc, t.ea, t.psw)) = some (0xBBAA, 0x0102, 0x0000, 0x20) := by
  decide

/-- Vector L20 (95_test_vectors.md): L ER0,[EA+] odd EA: bytes at odd offset, EA rounded to even. -/
theorem test_lERnEAInc_L20 :
    runs [0x9052] (fun s => s |>.setEa 0x8001 |> withBytes 0x8000 [0x11, 0x22, 0x33, 0x44, 0x55, 0x66, 0x77, 0x88]) (fun t => (t.er 0, t.pc, t.ea, t.psw)) = some (0x3322, 0x0102, 0x8002, 0x00) := by
  decide

/-- Vector L7 (95_test_vectors.md): L ER0,[ER2]. -/
theorem test_lERnERm_L7 :
    runs [0x9022] (fun s => s |>.setEr 2 0x8002 |> withBytes 0x8000 [0x11, 0x22, 0x33, 0x44, 0x55, 0x66, 0x77, 0x88]) (fun t => (t.er 0, t.pc, t.psw)) = some (0x4433, 0x0102, 0x00) := by
  decide

/-- Vector L9 (95_test_vectors.md): L ER0,-2[ER2] (Disp16 0xFFFE). -/
theorem test_lERnDisp16ERm_L9 :
    runs [0xA028, 0xFFFE] (fun s => s |>.setEr 2 0x8004 |> withBytes 0x8000 [0x11, 0x22, 0x33, 0x44, 0x55, 0x66, 0x77, 0x88]) (fun t => (t.er 0, t.pc, t.psw)) = some (0x4433, 0x0104, 0x00) := by
  decide

/-- Vector L11 (95_test_vectors.md): L ER0,-32[BP]. -/
theorem test_lERnDisp6BP_L11 :
    runs [0xB020] (fun s => s |>.setEr 12 0x8024 |> withBytes 0x8000 [0x11, 0x22, 0x33, 0x44, 0x55, 0x66, 0x77, 0x88]) (fun t => (t.er 0, t.pc, t.psw)) = some (0x6655, 0x0102, 0x00) := by
  decide

/-- The example of R194. -/
theorem test_lERnDisp6FP_R194 :
    runs [0xB244] (fun s => s |>.setEr 14 0x7FFC |>.setPsw 0x80 |> withBytes 0x8000 [0x11, 0x22, 0x33]) (fun t => (t.er 2, t.psw)) = some (0x2211, 0x80) := by
  decide

/-- Vector L13 (95_test_vectors.md): L ER0,0x8006. -/
theorem test_lERnDadr_L13 :
    runs [0x9012, 0x8006] (fun s => s |> withBytes 0x8000 [0x11, 0x22, 0x33, 0x44, 0x55, 0x66, 0x77, 0x88]) (fun t => (t.er 0, t.pc, t.psw)) = some (0x8877, 0x0104, 0x20) := by
  decide

/-- Vector L1 (95_test_vectors.md): L R0,[EA]. -/
theorem test_lRnEA_L1 :
    runs [0x9030] (fun s => s |>.setEa 0x8000 |> withBytes 0x8000 [0x11, 0x22, 0x33, 0x44, 0x55, 0x66, 0x77, 0x88]) (fun t => (t.r 0, t.pc, t.psw)) = some (0x11, 0x0102, 0x00) := by
  decide

/-- Vector L15 (95_test_vectors.md): L R0,[EA] zero sets Z. -/
theorem test_lRnEA_L15 :
    runs [0x9030] (fun s => s |>.setEa 0x9000 |>.setR 0 0x55 |>.setPsw 0xA0) (fun t => (t.r 0, t.pc, t.psw)) = some (0x00, 0x0102, 0xC0) := by
  decide

/-- Vector L3 (95_test_vectors.md): L R0,[EA+]. -/
theorem test_lRnEAInc_L3 :
    runs [0x9050] (fun s => s |>.setEa 0x8001 |> withBytes 0x8000 [0x11, 0x22, 0x33, 0x44, 0x55, 0x66, 0x77, 0x88]) (fun t => (t.r 0, t.pc, t.ea, t.psw)) = some (0x22, 0x0102, 0x8002, 0x00) := by
  decide

/-- Vector L8 (95_test_vectors.md): L R5,[ER2]. -/
theorem test_lRnERm_L8 :
    runs [0x9520] (fun s => s |>.setEr 2 0x8007 |> withBytes 0x8000 [0x11, 0x22, 0x33, 0x44, 0x55, 0x66, 0x77, 0x88]) (fun t => (t.r 5, t.pc, t.psw)) = some (0x88, 0x0102, 0x20) := by
  decide

/-- Vector L10 (95_test_vectors.md): L R1,0x8000[ER2]. -/
theorem test_lRnDisp16ERm_L10 :
    runs [0x9128, 0x8000] (fun s => s |>.setEr 2 0x0003 |> withBytes 0x8000 [0x11, 0x22, 0x33, 0x44, 0x55, 0x66, 0x77, 0x88]) (fun t => (t.r 1, t.pc, t.psw)) = some (0x44, 0x0104, 0x00) := by
  decide

/-- The example of R200. -/
theorem test_lRnDisp6BP_R200 :
    runs [0xD33E] (fun s => s |>.setEr 12 0x8002 |>.setPsw 0x80 |> withBytes 0x8000 [0x11, 0x22, 0x33]) (fun t => (t.r 3, t.psw)) = some (0x11, 0x80) := by
  decide

/-- Vector L12 (95_test_vectors.md): L R0,31[FP]. -/
theorem test_lRnDisp6FP_L12 :
    runs [0xD05F] (fun s => s |>.setEr 14 0x7FE1 |> withBytes 0x8000 [0x11, 0x22, 0x33, 0x44, 0x55, 0x66, 0x77, 0x88]) (fun t => (t.r 0, t.pc, t.psw)) = some (0x11, 0x0102, 0x00) := by
  decide

/-- Vector L14 (95_test_vectors.md): L R0,0x8007. -/
theorem test_lRnDadr_L14 :
    runs [0x9010, 0x8007] (fun s => s |> withBytes 0x8000 [0x11, 0x22, 0x33, 0x44, 0x55, 0x66, 0x77, 0x88]) (fun t => (t.r 0, t.pc, t.psw)) = some (0x88, 0x0104, 0x20) := by
  decide

/-- The example of R203. -/
theorem test_lXRnEA_R203 :
    runs [0x9434] (fun s => s |>.setEa 0x8000 |>.setPsw 0x80 |> withBytes 0x8000 [0x11, 0x22, 0x33, 0x44, 0x55]) (fun t => (t.group 4 4, t.psw)) = some (0x44332211, 0x80) := by
  decide

/-- Vector L4 (95_test_vectors.md): L XR4,[EA+]. -/
theorem test_lXRnEAInc_L4 :
    runs [0x9454] (fun s => s |>.setEa 0x8000 |> withBytes 0x8000 [0x11, 0x22, 0x33, 0x44, 0x55, 0x66, 0x77, 0x88]) (fun t => (t.group 4 4, t.pc, t.ea, t.psw)) = some (0x44332211, 0x0102, 0x8004, 0x00) := by
  decide

/-- Vector L21 (95_test_vectors.md): L XR0,[EA+] odd EA. -/
theorem test_lXRnEAInc_L21 :
    runs [0x9054] (fun s => s |>.setEa 0x8003 |> withBytes 0x8000 [0x11, 0x22, 0x33, 0x44, 0x55, 0x66, 0x77, 0x88]) (fun t => (t.group 4 0, t.pc, t.ea, t.psw)) = some (0x77665544, 0x0102, 0x8006, 0x00) := by
  decide

/-- Vector L6 (95_test_vectors.md): L QR0,[EA]. -/
theorem test_lQRnEA_L6 :
    runs [0x9036] (fun s => s |>.setEa 0x8000 |> withBytes 0x8000 [0x11, 0x22, 0x33, 0x44, 0x55, 0x66, 0x77, 0x88]) (fun t => (t.group 8 0, t.pc, t.psw)) = some (0x8877665544332211, 0x0102, 0x20) := by
  decide

/-- Vector L5 (95_test_vectors.md): L QR8,[EA+]. -/
theorem test_lQRnEAInc_L5 :
    runs [0x9856] (fun s => s |>.setEa 0x8000 |> withBytes 0x8000 [0x11, 0x22, 0x33, 0x44, 0x55, 0x66, 0x77, 0x88]) (fun t => (t.group 8 8, t.pc, t.ea, t.psw)) = some (0x8877665544332211, 0x0102, 0x8008, 0x20) := by
  decide

/-- The example of R207. -/
theorem test_stERnEA_R207 :
    runs [0x9233] (fun s => s |>.setEa 0x8000 |>.setEr 2 0xB2A1 |>.setPsw 0xC4) (fun t => (t.psw, bytesAt t 0x8000 2)) = some (0xC4, [0xA1, 0xB2]) := by
  decide

/-- Vector ST2 (95_test_vectors.md): ST ER2,[EA+]. -/
theorem test_stERnEAInc_ST2 :
    runs [0x9253] (fun s => s |>.setEa 0x9000 |>.setEr 2 0x1234) (fun t => (t.pc, t.ea, t.psw, bytesAt t 0x9000 2)) = some (0x0102, 0x9002, 0x00, [0x34, 0x12]) := by
  decide

/-- Vector ST7 (95_test_vectors.md): ST ER0,[ER2]. -/
theorem test_stERnERm_ST7 :
    runs [0x9023] (fun s => s |>.setEr 0 0xBEEF |>.setEr 2 0x9001) (fun t => (t.pc, t.psw, bytesAt t 0x9001 2)) = some (0x0102, 0x00, [0xEF, 0xBE]) := by
  decide

/-- Vector ST9 (95_test_vectors.md): ST ER0,4[ER2]. -/
theorem test_stERnDisp16ERm_ST9 :
    runs [0xA029, 0x0004] (fun s => s |>.setEr 0 0xBEEF |>.setEr 2 0x9000) (fun t => (t.pc, t.psw, bytesAt t 0x9004 2)) = some (0x0104, 0x00, [0xEF, 0xBE]) := by
  decide

/-- Vector ST11 (95_test_vectors.md): ST ER0,-1[BP]. -/
theorem test_stERnDisp6BP_ST11 :
    runs [0xB0BF] (fun s => s |>.setEr 0 0xBEEF |>.setEr 12 0x9001) (fun t => (t.pc, t.psw, bytesAt t 0x9000 2)) = some (0x0102, 0x00, [0xEF, 0xBE]) := by
  decide

/-- The example of R212. -/
theorem test_stERnDisp6FP_R212 :
    runs [0xB2C4] (fun s => s |>.setEr 14 0x7FFC |>.setEr 2 0xB2A1 |>.setPsw 0xC4) (fun t => (t.psw, bytesAt t 0x8000 2)) = some (0xC4, [0xA1, 0xB2]) := by
  decide

/-- Vector ST13 (95_test_vectors.md): ST ER0,0x9000. -/
theorem test_stERnDadr_ST13 :
    runs [0x9013, 0x9000] (fun s => s |>.setEr 0 0xBEEF) (fun t => (t.pc, t.psw, bytesAt t 0x9000 2)) = some (0x0104, 0x00, [0xEF, 0xBE]) := by
  decide

/-- Vector ST1 (95_test_vectors.md): ST R1,[EA]. -/
theorem test_stRnEA_ST1 :
    runs [0x9131] (fun s => s |>.setEa 0x9000 |>.setR 1 0xAB |>.setPsw 0xC4) (fun t => (t.pc, t.psw, bytesAt t 0x9000 1)) = some (0x0102, 0xC4, [0xAB]) := by
  decide

/-- Vector ST3 (95_test_vectors.md): ST R1,[EA+]. -/
theorem test_stRnEAInc_ST3 :
    runs [0x9151] (fun s => s |>.setEa 0x9000 |>.setR 1 0xAB) (fun t => (t.pc, t.ea, t.psw, bytesAt t 0x9000 1)) = some (0x0102, 0x9001, 0x00, [0xAB]) := by
  decide

/-- Vector ST8 (95_test_vectors.md): ST R4,[ER2]. -/
theorem test_stRnERm_ST8 :
    runs [0x9421] (fun s => s |>.setR 4 0x99 |>.setEr 2 0x9000) (fun t => (t.pc, t.psw, bytesAt t 0x9000 1)) = some (0x0102, 0x00, [0x99]) := by
  decide

/-- Vector ST10 (95_test_vectors.md): ST R0,0xFFFF[ER2] wraps. -/
theorem test_stRnDisp16ERm_ST10 :
    runs [0x9029, 0xFFFF] (fun s => s |>.setR 0 0x42 |>.setEr 2 0x0002) (fun t => (t.pc, t.psw, bytesAt t 0x1 1)) = some (0x0104, 0x00, [0x42]) := by
  decide

/-- The example of R218. -/
theorem test_stRnDisp6BP_R218 :
    runs [0xD3BE] (fun s => s |>.setEr 12 0x8002 |>.setR 3 0xA1 |>.setPsw 0xC4) (fun t => (t.psw, bytesAt t 0x8000 1)) = some (0xC4, [0xA1]) := by
  decide

/-- Vector ST12 (95_test_vectors.md): ST R0,1[FP]. -/
theorem test_stRnDisp6FP_ST12 :
    runs [0xD0C1] (fun s => s |>.setR 0 0x42 |>.setEr 14 0x9000) (fun t => (t.pc, t.psw, bytesAt t 0x9001 1)) = some (0x0102, 0x00, [0x42]) := by
  decide

/-- Vector ST14 (95_test_vectors.md): ST R0,0x9000. -/
theorem test_stRnDadr_ST14 :
    runs [0x9011, 0x9000] (fun s => s |>.setR 0 0x42) (fun t => (t.pc, t.psw, bytesAt t 0x9000 1)) = some (0x0104, 0x00, [0x42]) := by
  decide

/-- The example of R221. -/
theorem test_stXRnEA_R221 :
    runs [0x9435] (fun s => s |>.setEa 0x8000 |>.setGroup 4 4 0xD4C3B2A1 |>.setPsw 0xC4) (fun t => (t.psw, bytesAt t 0x8000 4)) = some (0xC4, [0xA1, 0xB2, 0xC3, 0xD4]) := by
  decide

/-- Vector ST4 (95_test_vectors.md): ST XR4,[EA+]. -/
theorem test_stXRnEAInc_ST4 :
    runs [0x9455] (fun s => s |>.setEa 0x9000 |>.setGroup 4 4 0x44332211) (fun t => (t.pc, t.ea, t.psw, bytesAt t 0x9000 4)) = some (0x0102, 0x9004, 0x00, [0x11, 0x22, 0x33, 0x44]) := by
  decide

/-- Vector ST5 (95_test_vectors.md): ST QR8,[EA]. -/
theorem test_stQRnEA_ST5 :
    runs [0x9837] (fun s => s |>.setEa 0x9000 |>.setGroup 8 8 0x8877665544332211) (fun t => (t.pc, t.psw, bytesAt t 0x9000 8)) = some (0x0102, 0x00, [0x11, 0x22, 0x33, 0x44, 0x55, 0x66, 0x77, 0x88]) := by
  decide

/-- Vector ST6 (95_test_vectors.md): ST QR0,[EA+]. -/
theorem test_stQRnEAInc_ST6 :
    runs [0x9057] (fun s => s |>.setEa 0xFFFC |>.setGroup 8 0 0x807060504030201) (fun t => (t.pc, t.ea, t.psw, bytesAt t 0x0 4, bytesAt t 0xFFFC 4)) = some (0x0102, 0x0004, 0x00, [0x05, 0x06, 0x07, 0x08], [0x01, 0x02, 0x03, 0x04]) := by
  decide

/-- Vector K1 (95_test_vectors.md): PUSH R3. -/
theorem test_pushRn_K1 :
    runs [0xF34E] (fun s => s |>.setR 3 0xAB |> withBytes 0x8DF0 [0xEE, 0xEE, 0xEE, 0xEE, 0xEE, 0xEE, 0xEE, 0xEE, 0xEE, 0xEE, 0xEE, 0xEE, 0xEE, 0xEE, 0xEE, 0xEE]) (fun t => (t.pc, t.sp, t.psw, bytesAt t 0x8DFE 1)) = some (0x0102, 0x8DFE, 0x00, [0xAB]) := by
  decide

/-- Vector K2 (95_test_vectors.md): PUSH ER2. -/
theorem test_pushERn_K2 :
    runs [0xF25E] (fun s => s |>.setEr 2 0x1234) (fun t => (t.pc, t.sp, t.psw, bytesAt t 0x8DFE 2)) = some (0x0102, 0x8DFE, 0x00, [0x34, 0x12]) := by
  decide

/-- Vector K17 (95_test_vectors.md): PUSH ER0 at SP=1 wraps inside segment 0. -/
theorem test_pushERn_K17 :
    runs [0xF05E] (fun s => s |>.setEr 0 0xCAFE |>.setSp 0x0001) (fun t => (t.pc, t.sp, t.psw, bytesAt t 0x0 1, bytesAt t 0xFFFF 1)) = some (0x0102, 0xFFFF, 0x00, [0xCA], [0xFE]) := by
  decide

/-- Vector K3 (95_test_vectors.md): PUSH XR4. -/
theorem test_pushXRn_K3 :
    runs [0xF46E] (fun s => s |>.setGroup 4 4 0x44332211) (fun t => (t.pc, t.sp, t.psw, bytesAt t 0x8DFC 4)) = some (0x0102, 0x8DFC, 0x00, [0x11, 0x22, 0x33, 0x44]) := by
  decide

/-- Vector K4 (95_test_vectors.md): PUSH QR8. -/
theorem test_pushQRn_K4 :
    runs [0xF87E] (fun s => s |>.setGroup 8 8 0x8877665544332211) (fun t => (t.pc, t.sp, t.psw, bytesAt t 0x8DF8 8)) = some (0x0102, 0x8DF8, 0x00, [0x11, 0x22, 0x33, 0x44, 0x55, 0x66, 0x77, 0x88]) := by
  decide

/-- Vector K10 (95_test_vectors.md): PUSH LR,EPSW,ELR,EA at level 1. -/
theorem test_pushList_K10 :
    runs [0xFFCE] (fun s => s |>.setPsw 0x01 |>.setElr 1 0x2222 |>.setEcsr 1 0x02 |>.setEpsw 1 0x4B |>.setElr 0 0x1110 |>.setEcsr 0 0x01 |>.setEa 0x5678 |> withBytes 0x8DF0 [0xEE, 0xEE, 0xEE, 0xEE, 0xEE, 0xEE, 0xEE, 0xEE, 0xEE, 0xEE, 0xEE, 0xEE, 0xEE, 0xEE, 0xEE, 0xEE]) (fun t => (t.pc, t.sp, t.psw, bytesAt t 0x8DF4 12)) = some (0x0102, 0x8DF4, 0x01, [0x78, 0x56, 0x10, 0x11, 0x01, 0x00, 0x4B, 0x00, 0x22, 0x22, 0x02, 0x00]) := by
  decide

/-- Vector K14 (95_test_vectors.md): PUSH EPSW at level 2. -/
theorem test_pushList_K14 :
    runs [0xF4CE] (fun s => s |>.setPsw 0x82 |>.setEpsw 2 0x4B |> withBytes 0x8DF0 [0xEE, 0xEE, 0xEE, 0xEE, 0xEE, 0xEE, 0xEE, 0xEE, 0xEE, 0xEE, 0xEE, 0xEE, 0xEE, 0xEE, 0xEE, 0xEE]) (fun t => (t.pc, t.sp, t.psw, bytesAt t 0x8DFE 2)) = some (0x0102, 0x8DFE, 0x82, [0x4B, 0x00]) := by
  decide

/-- Vector K6 (95_test_vectors.md): POP R3. -/
theorem test_popRn_K6 :
    runs [0xF30E] (fun s => s |>.setSp 0x8DFE |> withBytes 0x8DFE [0xAB, 0xCD]) (fun t => (t.r 3, t.pc, t.sp, t.psw)) = some (0xAB, 0x0102, 0x8E00, 0x00) := by
  decide

/-- Vector K7 (95_test_vectors.md): POP ER2. -/
theorem test_popERn_K7 :
    runs [0xF21E] (fun s => s |>.setSp 0x8DFE |> withBytes 0x8DFE [0xAB, 0xCD]) (fun t => (t.er 2, t.pc, t.sp, t.psw)) = some (0xCDAB, 0x0102, 0x8E00, 0x00) := by
  decide

/-- Vector K8 (95_test_vectors.md): POP XR4. -/
theorem test_popXRn_K8 :
    runs [0xF42E] (fun s => s |>.setSp 0x8DFC |> withBytes 0x8DFC [0x11, 0x22, 0x33, 0x44]) (fun t => (t.group 4 4, t.pc, t.sp, t.psw)) = some (0x44332211, 0x0102, 0x8E00, 0x00) := by
  decide

/-- Vector K9 (95_test_vectors.md): POP QR8. -/
theorem test_popQRn_K9 :
    runs [0xF83E] (fun s => s |>.setSp 0x8DF8 |> withBytes 0x8DF8 [0x11, 0x22, 0x33, 0x44, 0x55, 0x66, 0x77, 0x88]) (fun t => (t.group 8 8, t.pc, t.sp, t.psw)) = some (0x8877665544332211, 0x0102, 0x8E00, 0x00) := by
  decide

/-- Vector K11 (95_test_vectors.md): POP EA,LR,PSW,PC. -/
theorem test_popList_K11 :
    runs [0xFF8E] (fun s => s |>.setPsw 0x01 |>.setSp 0x8DF2 |> withBytes 0x8DF2 [0x78, 0x56, 0x10, 0x11, 0x01, 0x00, 0x4B, 0x00, 0x22, 0x22, 0x02, 0x00]) (fun t => (t.pc, t.csr, t.sp, t.ea, t.psw, t.lr, t.lcsr)) = some (0x2222, 0x02, 0x8DFE, 0x5678, 0x4B, 0x1110, 0x01) := by
  decide

/-- Vector K16 (95_test_vectors.md): POP PC: bit 0 and slot high byte dropped. -/
theorem test_popList_K16 :
    runs [0xF28E] (fun s => s |>.setSp 0x8DFC |> withBytes 0x8DFC [0x35, 0x12, 0xF3, 0xAA]) (fun t => (t.pc, t.csr, t.sp, t.psw)) = some (0x1234, 0xF3, 0x8E00, 0x00) := by
  decide

/-- Vector C7 (95_test_vectors.md): MOV ECSR,R1 at level 3. -/
theorem test_movECSRRm_C7 :
    runs [0xA01F] (fun s => s |>.setPsw 0x03 |>.setR 1 0xF5) (fun t => (t.pc, t.psw, t.ecsrOf 3)) = some (0x0102, 0x03, 0xF5) := by
  decide

/-- Vector C9 (95_test_vectors.md): MOV EPSW,R1 at level 1. -/
theorem test_movEPSWRm_C9 :
    runs [0xA01C] (fun s => s |>.setPsw 0x01 |>.setR 1 0xC8) (fun t => (t.pc, t.psw, t.epswOf 1)) = some (0x0102, 0x01, 0xC8) := by
  decide

/-- Vector C10 (95_test_vectors.md): MOV EPSW,R1 at level 0: no effect. -/
theorem test_movEPSWRm_C10 :
    runs [0xA01C] (fun s => s |>.setPsw 0x80 |>.setR 1 0x4B) (fun t => (t.pc, t.psw)) = some (0x0102, 0x80) := by
  decide

/-- Vector C4 (95_test_vectors.md): MOV ELR,ER2 at level 2. -/
theorem test_movELRERm_C4 :
    runs [0xA20D] (fun s => s |>.setPsw 0x02 |>.setEr 2 0x1235) (fun t => (t.pc, t.psw, t.elrOf 2)) = some (0x0102, 0x02, 0x1235) := by
  decide

/-- Vector C5 (95_test_vectors.md): MOV ELR,ER2 at level 0 writes LR. -/
theorem test_movELRERm_C5 :
    runs [0xA20D] (fun s => s |>.setEr 2 0x1235) (fun t => (t.pc, t.psw, t.lr)) = some (0x0102, 0x00, 0x1235) := by
  decide

/-- Vector C6 (95_test_vectors.md): MOV ER4,ELR at level 1. -/
theorem test_movERnELR_C6 :
    runs [0xA405] (fun s => s |>.setPsw 0x01 |>.setElr 1 0x4321 |>.setElr 0 0x1111) (fun t => (t.er 4, t.pc, t.psw)) = some (0x4321, 0x0102, 0x01) := by
  decide

/-- Vector C11 (95_test_vectors.md): MOV R0,EPSW at level 2. -/
theorem test_movRnEPSW_C11 :
    runs [0xA004] (fun s => s |>.setPsw 0x42 |>.setEpsw 2 0x00 |>.setR 0 0x55) (fun t => (t.r 0, t.pc, t.psw)) = some (0x00, 0x0102, 0x42) := by
  decide

/-- Vector C12 (95_test_vectors.md): MOV R0,EPSW at level 0: no effect. -/
theorem test_movRnEPSW_C12 :
    runs [0xA004] (fun s => s |>.setPsw 0x80 |>.setR 0 0x55 |>.setEpsw 1 0x11) (fun t => (t.pc, t.psw)) = some (0x0102, 0x80) := by
  decide

/-- Vector C3 (95_test_vectors.md): MOV PSW,R1. -/
theorem test_movPSWRm_C3 :
    runs [0xA01B] (fun s => s |>.setR 1 0x4A) (fun t => (t.pc, t.psw)) = some (0x0102, 0x4A) := by
  decide

/-- Vector C1 (95_test_vectors.md): MOV PSW,#0xFF. -/
theorem test_movPSWImm8_C1 :
    runs [0xE9FF] (fun s => s) (fun t => (t.pc, t.psw)) = some (0x0102, 0xFF) := by
  decide

/-- Vector C8 (95_test_vectors.md): MOV R0,ECSR at level 0 reads LCSR. -/
theorem test_movRnECSR_C8 :
    runs [0xA007] (fun s => s |>.setEcsr 0 0x07 |>.setEcsr 1 0x09) (fun t => (t.r 0, t.pc, t.psw)) = some (0x07, 0x0102, 0x00) := by
  decide

/-- Vector C2 (95_test_vectors.md): MOV R0,PSW. -/
theorem test_movRnPSW_C2 :
    runs [0xA003] (fun s => s |>.setPsw 0xB6) (fun t => (t.r 0, t.pc, t.psw)) = some (0xB6, 0x0102, 0xB6) := by
  decide

/-- Vector C13 (95_test_vectors.md): MOV ER0,SP. -/
theorem test_movERnSP_C13 :
    runs [0xA01A] (fun s => s |>.setSp 0x8DF1 |>.setPsw 0x40) (fun t => (t.er 0, t.pc, t.psw)) = some (0x8DF1, 0x0102, 0x40) := by
  decide

/-- Vector C14 (95_test_vectors.md): MOV SP,ER2 odd value kept. -/
theorem test_movSPERm_C14 :
    runs [0xA12A] (fun s => s |>.setEr 2 0x7FFF) (fun t => (t.pc, t.sp, t.psw)) = some (0x0102, 0x7FFF, 0x00) := by
  decide

/-- Vector C15 (95_test_vectors.md): ADD SP,#-4. -/
theorem test_addSPImm8_C15 :
    runs [0xE1FC] (fun s => s) (fun t => (t.pc, t.sp, t.psw)) = some (0x0102, 0x8DFC, 0x00) := by
  decide

/-- Vector C16 (95_test_vectors.md): ADD SP,#127 wraps. -/
theorem test_addSPImm8_C16 :
    runs [0xE17F] (fun s => s |>.setSp 0xFFF0 |>.setPsw 0x00) (fun t => (t.pc, t.sp, t.psw)) = some (0x0102, 0x006F, 0x00) := by
  decide

/-- Vector C17 (95_test_vectors.md): LEA [ER2]. -/
theorem test_leaERm_C17 :
    runs [0xF02A] (fun s => s |>.setEr 2 0x1235) (fun t => (t.pc, t.ea, t.psw)) = some (0x0102, 0x1235, 0x00) := by
  decide

/-- Vector C18 (95_test_vectors.md): LEA 0xFFFF[ER2]. -/
theorem test_leaDisp16ERm_C18 :
    runs [0xF02B, 0xFFFF] (fun s => s |>.setEr 2 0x0000) (fun t => (t.pc, t.ea, t.psw)) = some (0x0104, 0xFFFF, 0x00) := by
  decide

/-- Vector C19 (95_test_vectors.md): LEA 0x1234. -/
theorem test_leaDadr_C19 :
    runs [0xF00C, 0x1234] (fun s => s) (fun t => (t.pc, t.ea, t.psw)) = some (0x0104, 0x1234, 0x00) := by
  decide

/-- Vector C20 (95_test_vectors.md): EI. -/
theorem test_ei_C20 :
    runs [0xED08] (fun s => s |>.setPsw 0x81) (fun t => (t.pc, t.psw)) = some (0x0102, 0x89) := by
  decide

/-- Vector C21 (95_test_vectors.md): DI. -/
theorem test_di_C21 :
    runs [0xEBF7] (fun s => s |>.setPsw 0xFF) (fun t => (t.pc, t.psw)) = some (0x0102, 0xF7) := by
  decide

/-- Vector C22 (95_test_vectors.md): SC. -/
theorem test_sc_C22 :
    runs [0xED80] (fun s => s) (fun t => (t.pc, t.psw)) = some (0x0102, 0x80) := by
  decide

/-- Vector C23 (95_test_vectors.md): RC. -/
theorem test_rc_C23 :
    runs [0xEB7F] (fun s => s |>.setPsw 0xFF) (fun t => (t.pc, t.psw)) = some (0x0102, 0x7F) := by
  decide

/-- Vector C25 (95_test_vectors.md): CPLC. -/
theorem test_cplc_C25 :
    runs [0xFECF] (fun s => s |>.setPsw 0x40) (fun t => (t.pc, t.psw)) = some (0x0102, 0xC0) := by
  decide

/-- Vector B3 (95_test_vectors.md): BLT -2 with C=1 taken (to 0x00FE). -/
theorem test_bcond_B3 :
    runs [0xC1FE] (fun s => s |>.setPsw 0x80) (fun t => (t.pc, t.psw)) = some (0x00FE, 0x80) := by
  decide

/-- Vector B2 (95_test_vectors.md): BGE +3 with C=1 not taken. -/
theorem test_bcond_B2 :
    runs [0xC003] (fun s => s |>.setPsw 0x80) (fun t => (t.pc, t.psw)) = some (0x0102, 0x80) := by
  decide

/-- Vector B19 (95_test_vectors.md): B 3:0x1235. -/
theorem test_bCadr_B19 :
    runs [0xF300, 0x1235] (fun s => s) (fun t => (t.pc, t.csr, t.psw)) = some (0x1234, 0x03, 0x00) := by
  decide

/-- Vector B21 (95_test_vectors.md): BL 2:0x1234 from segment 1. -/
theorem test_blCadr_B21 :
    runs [0xF201, 0x1234] (fun s => s |>.setCsr 0x01) (fun t => (t.pc, t.csr, t.psw, t.lr, t.lcsr)) = some (0x1234, 0x02, 0x00, 0x0104, 0x01) := by
  decide

/-- Vector B25 (95_test_vectors.md): BL at level 2 still writes LR. -/
theorem test_blCadr_B25 :
    runs [0xF001, 0x2000] (fun s => s |>.setPsw 0x02 |>.setElr 2 0x5555) (fun t => (t.pc, t.psw, t.lr)) = some (0x2000, 0x02, 0x0104) := by
  decide

/-- Vector B22 (95_test_vectors.md): B ER4. -/
theorem test_bERn_B22 :
    runs [0xF042] (fun s => s |>.setEr 4 0x4567 |>.setCsr 0x01) (fun t => (t.pc, t.psw)) = some (0x4566, 0x00) := by
  decide

/-- Vector B23 (95_test_vectors.md): BL ER4. -/
theorem test_blERn_B23 :
    runs [0xF043] (fun s => s |>.setEr 4 0x4567 |>.setCsr 0x01) (fun t => (t.pc, t.psw, t.lr, t.lcsr)) = some (0x4566, 0x00, 0x0102, 0x01) := by
  decide

/-- Vector B24 (95_test_vectors.md): RT. -/
theorem test_rt_B24 :
    runs [0xFE1F] (fun s => s |>.setElr 0 0x0BAD |>.setEcsr 0 0x09) (fun t => (t.pc, t.csr, t.psw)) = some (0x0BAC, 0x09, 0x00) := by
  decide

/-- Vector I1 (95_test_vectors.md): RTI at level 2. -/
theorem test_rti_I1 :
    runs [0xFE0F] (fun s => s |>.setPsw 0x02 |>.setElr 2 0x3457 |>.setEcsr 2 0x04 |>.setEpsw 2 0x89) (fun t => (t.pc, t.csr, t.psw)) = some (0x3456, 0x04, 0x89) := by
  decide

/-- Vector I2 (95_test_vectors.md): RTI at level 0 acts as RT. -/
theorem test_rti_I2 :
    runs [0xFE0F] (fun s => s |>.setPsw 0x80 |>.setElr 0 0x0246 |>.setEcsr 0 0x01) (fun t => (t.pc, t.csr, t.psw)) = some (0x0246, 0x01, 0x80) := by
  decide

/-- Vector I4 (95_test_vectors.md): SWI #5 (signal only). -/
theorem test_swi_I4 :
    runs [0xE505] (fun s => s |>.setPsw 0x08) (fun t => (t.pc, t.psw, t.signal)) = some (0x0102, 0x08, some (.swi 5)) := by
  decide

/-- Vector I6 (95_test_vectors.md): BRK (signal only). -/
theorem test_brk_I6 :
    runs [0xFFFF] (fun s => s) (fun t => (t.pc, t.psw, t.signal)) = some (0x0102, 0x00, some .brk) := by
  decide

/-- Vector M1 (95_test_vectors.md): MUL ER0,R2. -/
theorem test_mulERnRm_M1 :
    runs [0xF024] (fun s => s |>.setR 0 0xFF |>.setR 1 0x77 |>.setR 2 0xFF) (fun t => (t.er 0, t.pc, t.psw)) = some (0xFE01, 0x0102, 0x00) := by
  decide

/-- Vector M3 (95_test_vectors.md): MUL ER0,R1 (Rm in destination). -/
theorem test_mulERnRm_M3 :
    runs [0xF014] (fun s => s |>.setR 0 0x10 |>.setR 1 0x55) (fun t => (t.er 0, t.pc, t.psw)) = some (0x0550, 0x0102, 0x00) := by
  decide

/-- Vector M4 (95_test_vectors.md): DIV ER0,R2. -/
theorem test_divERnRm_M4 :
    runs [0xF029] (fun s => s |>.setEr 0 0x1234 |>.setR 2 0x10 |>.setPsw 0x80) (fun t => (t.er 0, t.r 2, t.pc, t.psw)) = some (0x0123, 0x04, 0x0102, 0x00) := by
  decide

/-- Vector M7 (95_test_vectors.md): DIV ER0,R0 (Rm in destination). -/
theorem test_divERnRm_M7 :
    runs [0xF009] (fun s => s |>.setEr 0 0x0A07) (fun t => (t.er 0, t.pc, t.psw)) = some (0x016E, 0x0102, 0x00) := by
  decide

/-- Vector M9 (95_test_vectors.md): NEG R0. -/
theorem test_negRn_M9 :
    runs [0x805F] (fun s => s |>.setR 0 0x01) (fun t => (t.r 0, t.pc, t.psw)) = some (0xFF, 0x0102, 0xA4) := by
  decide

/-- Vector M10 (95_test_vectors.md): NEG R0 of 0x80. -/
theorem test_negRn_M10 :
    runs [0x805F] (fun s => s |>.setR 0 0x80) (fun t => (t.pc, t.psw)) = some (0x0102, 0xB0) := by
  decide

/-- The example of R313. -/
theorem test_daaRn_R313 :
    runs [0x801F] (fun s => s |>.setR 0 0x41 |>.setPsw 0x04) (fun t => (t.r 0, t.psw)) = some (0x47, 0x00) := by
  decide

/-- The second example of R313: 0x99 + 0x01 adjusted. -/
theorem test_daaRn_R313_carry :
    runs [0x801F] (fun s => s |>.setR 0 0x9A |>.setPsw 0x20) (fun t => (t.r 0, t.psw)) = some (0x00, 0xC4) := by
  decide

/-- The example of R314. -/
theorem test_dasRn_R314 :
    runs [0x803F] (fun s => s |>.setR 0 0xF0 |>.setPsw 0xA0) (fun t => (t.r 0, t.psw)) = some (0x90, 0xA0) := by
  decide

/-- Vector M16 (95_test_vectors.md): EXTBW ER0 negative. -/
theorem test_extbwER0_M16 :
    runs [0x810F] (fun s => s |>.setR 0 0x80 |>.setR 1 0x55) (fun t => (t.r 1, t.pc, t.psw)) = some (0xFF, 0x0102, 0x20) := by
  decide

/-- Vector M17 (95_test_vectors.md): EXTBW ER2 positive. -/
theorem test_extbwER2_M17 :
    runs [0x832F] (fun s => s |>.setR 2 0x7F |>.setR 3 0xFF |>.setPsw 0xA0) (fun t => (t.r 3, t.pc, t.psw)) = some (0x00, 0x0102, 0x80) := by
  decide

/-- Vector M18 (95_test_vectors.md): EXTBW ER4 zero. -/
theorem test_extbwER4_M18 :
    runs [0x854F] (fun s => s |>.setR 4 0x00 |>.setR 5 0xFF) (fun t => (t.r 5, t.pc, t.psw)) = some (0x00, 0x0102, 0x40) := by
  decide

/-- By hand from R315. -/
theorem test_extbwER6_R315 :
    runs [0x876F] (fun s => s |>.setR 6 0x80 |>.setR 7 0x12) (fun t => (t.er 6, t.psw)) = some (0xFF80, 0x20) := by
  decide

/-- By hand from R315. -/
theorem test_extbwER8_R315 :
    runs [0x898F] (fun s => s |>.setR 8 0x80 |>.setR 9 0x12) (fun t => (t.er 8, t.psw)) = some (0xFF80, 0x20) := by
  decide

/-- By hand from R315. -/
theorem test_extbwER10_R315 :
    runs [0x8BAF] (fun s => s |>.setR 10 0x80 |>.setR 11 0x12) (fun t => (t.er 10, t.psw)) = some (0xFF80, 0x20) := by
  decide

/-- By hand from R315. -/
theorem test_extbwER12_R315 :
    runs [0x8DCF] (fun s => s |>.setR 12 0x80 |>.setR 13 0x12) (fun t => (t.er 12, t.psw)) = some (0xFF80, 0x20) := by
  decide

/-- By hand from R315. -/
theorem test_extbwER14_R315 :
    runs [0x8FEF] (fun s => s |>.setR 14 0x80 |>.setR 15 0x12) (fun t => (t.er 14, t.psw)) = some (0xFF80, 0x20) := by
  decide

/-- Vector M19 (95_test_vectors.md): INC [EA]. -/
theorem test_incEA_M19 :
    runs [0xFE2F] (fun s => s |>.setEa 0x8000 |>.setPsw 0x80 |> withBytes 0x8000 [0x7F]) (fun t => (t.pc, t.psw, bytesAt t 0x8000 1)) = some (0x0102, 0xB4, [0x80]) := by
  decide

/-- Vector M20 (95_test_vectors.md): INC [EA] wraps, C untouched. -/
theorem test_incEA_M20 :
    runs [0xFE2F] (fun s => s |>.setEa 0x8000 |> withBytes 0x8000 [0xFF]) (fun t => (t.pc, t.psw, bytesAt t 0x8000 1)) = some (0x0102, 0x44, [0x00]) := by
  decide

/-- Vector M21 (95_test_vectors.md): DEC [EA]. -/
theorem test_decEA_M21 :
    runs [0xFE3F] (fun s => s |>.setEa 0x8000 |> withBytes 0x8000 [0x80]) (fun t => (t.pc, t.psw, bytesAt t 0x8000 1)) = some (0x0102, 0x14, [0x7F]) := by
  decide

/-- Vector M22 (95_test_vectors.md): DEC [EA] of 0. -/
theorem test_decEA_M22 :
    runs [0xFE3F] (fun s => s |>.setEa 0x8000 |>.setPsw 0x80 |> withBytes 0x8000 [0x00]) (fun t => (t.pc, t.psw, bytesAt t 0x8000 1)) = some (0x0102, 0xA4, [0xFF]) := by
  decide

/-- Vector M24 (95_test_vectors.md): SB R0.7 (was 0). -/
theorem test_sbRn_M24 :
    runs [0xA070] (fun s => s |>.setR 0 0x01) (fun t => (t.r 0, t.pc, t.psw)) = some (0x81, 0x0102, 0x40) := by
  decide

/-- Vector M25 (95_test_vectors.md): SB R0.0 (was 1). -/
theorem test_sbRn_M25 :
    runs [0xA000] (fun s => s |>.setR 0 0x01 |>.setPsw 0x40) (fun t => (t.pc, t.psw)) = some (0x0102, 0x00) := by
  decide

/-- Vector M28 (95_test_vectors.md): SB 0x9000.2. -/
theorem test_sbDbitadr_M28 :
    runs [0xA0A0, 0x9000] (fun s => s |> withBytes 0x9000 [0x10]) (fun t => (t.pc, t.psw, bytesAt t 0x9000 1)) = some (0x0104, 0x40, [0x14]) := by
  decide

/-- Vector M26 (95_test_vectors.md): RB R0.0. -/
theorem test_rbRn_M26 :
    runs [0xA002] (fun s => s |>.setR 0 0x01 |>.setPsw 0x40) (fun t => (t.r 0, t.pc, t.psw)) = some (0x00, 0x0102, 0x00) := by
  decide

/-- Vector M29 (95_test_vectors.md): RB 0x9000.4. -/
theorem test_rbDbitadr_M29 :
    runs [0xA0C2, 0x9000] (fun s => s |>.setPsw 0x40 |> withBytes 0x9000 [0x10]) (fun t => (t.pc, t.psw, bytesAt t 0x9000 1)) = some (0x0104, 0x00, [0x00]) := by
  decide

/-- Vector M27 (95_test_vectors.md): TB R0.3. -/
theorem test_tbRn_M27 :
    runs [0xA031] (fun s => s |>.setR 0 0xF7 |>.setPsw 0x80) (fun t => (t.pc, t.psw)) = some (0x0102, 0xC0) := by
  decide

/-- Vector M30 (95_test_vectors.md): TB 0x9000.4. -/
theorem test_tbDbitadr_M30 :
    runs [0xA0C1, 0x9000] (fun s => s |>.setPsw 0x40 |> withBytes 0x9000 [0x10]) (fun t => (t.pc, t.psw)) = some (0x0104, 0x00) := by
  decide

/-- Vector M32 (95_test_vectors.md): NOP. -/
theorem test_nop_M32 :
    runs [0xFE8F] (fun s => s |>.setPsw 0xFF) (fun t => (t.pc, t.psw)) = some (0x0102, 0xFF) := by
  decide

/-- Vector L17 (95_test_vectors.md): prefix 2: then L R0,[EA]. -/
theorem test_dsrImm8_L17 :
    runs [0xE302, 0x9030] (fun s => s |>.setEa 0x8000 |> withBytes 0x28000 [0x5A] |> withBytes 0x8000 [0x11]) (fun t => (t.r 0, t.pc, t.dsr, t.psw)) = some (0x5A, 0x0104, 0x02, 0x00) := by
  decide

/-- Vector L18 (95_test_vectors.md): prefix R3: then L R0,0x8000. -/
theorem test_dsrRd_L18 :
    runs [0x903F, 0x9010, 0x8000] (fun s => s |>.setR 3 0x01 |> withBytes 0x18000 [0x80]) (fun t => (t.r 0, t.pc, t.dsr, t.psw)) = some (0x80, 0x0106, 0x01, 0x20) := by
  decide

/-- Vector L19 (95_test_vectors.md): prefix DSR: then ST R1,[EA]. -/
theorem test_dsrDSR_L19 :
    runs [0xFE9F, 0x9131] (fun s => s |>.setDsr 0x04 |>.setEa 0x1234 |>.setR 1 0x77) (fun t => (t.pc, t.psw, bytesAt t 0x41234 1)) = some (0x0104, 0x00, [0x77]) := by
  decide

/-- DIV by zero is Raise(DIV0_LEVEL, DIV0_INDEX) (R311, R346); both are OPEN, so the entry is named, not evaluated. -/
theorem test_divERnRm_by_zero :
    exec (.divERnRm 0 2) (base.setEr 0 0x1234) = .next (takeException Config.div0Level.toBits Config.div0Index (base.setEr 0 0x1234)) := rfl

/-- Vector M37: the last of two prefixes wins. -/
theorem test_prefixes_M37 :
    runs [0xE301, 0xE302, 0x9030] (fun s => s |>.setEa 0x8000 |> withBytes 0x18000 [0x11] |> withBytes 0x28000 [0x22])
      (fun t => (t.r 0, t.pc, t.dsr, t.seg)) = some (0x22, 0x0106, 0x02, 0x00) := by
  decide

/-- Vector M36: a prefix and then a word of no row. -/
theorem test_illegal_M36 : (match step (withCode [0xE309, 0xE580] base) with
    | .fault (.undefinedInstruction w left) => some (w, left.pc, left.dsr, left.stopped)
    | _ => none) = some (0xE580, 0x0104, 0x09, true) := by decide

/-! ## The host operations and the reference platform: vectors X1 to X9, I5, I7 -/

/-- The start state of vectors X1 to X4. -/
def raised : State :=
  base |>.setPc 0x0456 |>.setCsr 0x03 |>.setPsw 0xC8 |>.setElr 0 0x1111 |>.setEcsr 0 0x0A |> withBytes 0x12 [0x00, 0x20]

/-- Vector X1: after Raise(0, 9), and after RTI. -/
theorem test_raise_X1 : (let t := takeException 0 9 raised; (t.pc, t.csr, t.psw, t.lr, t.lcsr)) = (0x2000, 0x00, 0xC8, 0x0456, 0x03) ∧
    after .rti (takeException 0 9 raised) (fun t => (t.pc, t.csr, t.psw, t.lr, t.lcsr)) = some (0x0456, 0x03, 0xC8, 0x0456, 0x03) := by
  decide

/-- Vector X2: after Raise(1, 9), and after RTI. -/
theorem test_raise_X2 : (let t := takeException 1 9 raised; (t.pc, t.csr, t.psw, t.elrOf 1, t.ecsrOf 1, t.epswOf 1, t.lr)) =
      (0x2000, 0x00, 0xC1, 0x0456, 0x03, 0xC8, 0x1111) ∧
    after .rti (takeException 1 9 raised) (fun t => (t.pc, t.csr, t.psw)) = some (0x0456, 0x03, 0xC8) := by
  decide

/-- Vectors X3 and X4: after Raise(2, 9) and Raise(3, 9). -/
theorem test_raise_X3_X4 : (let t := takeException 2 9 raised; (t.pc, t.psw, t.elrOf 2, t.epswOf 2)) = (0x2000, 0xCA, 0x0456, 0xC8) ∧
    (let t := takeException 3 9 raised; (t.pc, t.psw, t.elrOf 3, t.epswOf 3)) = (0x2000, 0xCB, 0x0456, 0xC8) := by
  decide

/-- Vector X5: Raise(1, 127) at level 2, with an odd vector entry. -/
theorem test_raise_X5 :
    (let t := takeException 1 127 (base |>.setPc 0x0456 |>.setCsr 0x03 |>.setPsw 0x8A |> withBytes 0xFE [0x01, 0x30])
     (t.pc, t.csr, t.psw, t.elrOf 1, t.ecsrOf 1, t.epswOf 1)) = (0x3000, 0x00, 0x81, 0x0456, 0x03, 0x8A) := by
  decide

/-- Vector X6: Raise(3, 0). -/
theorem test_raise_X6 :
    (let t := takeException 3 0 (base |>.setPc 0x0456 |>.setCsr 0x03 |>.setPsw 0x09 |> withBytes 0x0 [0x77, 0x77])
     (t.pc, t.csr, t.psw, t.elrOf 3, t.epswOf 3)) = (0x7776, 0x00, 0x0B, 0x0456, 0x09) := by
  decide

/-- Vector X7: Reset(). -/
theorem test_reset_X7 :
    (let t := (base |>.setPc 0x1234 |>.setCsr 0x07 |>.setPsw 0xEB |>.setDsr 0x03 |>.setSp 0x0005 |>.setCs true
        |> withBytes 0x0 [0xFF, 0x8D, 0x01, 0x01]).hostReset
     (t.sp, t.dsr, t.psw, t.csr, t.cs, t.pc)) = (0x8DFF, 0x00, 0x00, 0x00, false, 0x0100) := by
  decide

/-- Vector X8: Reset() of a stopped core, and the step after it. -/
theorem test_reset_X8 :
    (match step (((base |> withBytes 0x0 [0x00, 0x8E, 0x00, 0x02] |> withBytes 0x200 [0x8F, 0xFE]).setStopped true).hostReset) with
      | .next t => some (t.sp, t.pc, t.psw)
      | _ => none) = some (0x8E00, 0x0202, 0x00) := by
  decide

/-- A stopped core executes nothing (R121). -/
theorem test_stopped : step (base.setStopped true) = .fault .coreStopped := rfl

/-- Vector X9: arguments outside the domain of Raise. -/
theorem test_raise_X9 (s : State) : hostRaise 4 0 s = .refused (.hostArguments 4 0) ∧ hostRaise 1 128 s = .refused (.hostArguments 1 128) :=
  ⟨rfl, rfl⟩

/-- Vector I5: SWI #5 and the reference platform's Raise(1, 69). -/
theorem test_platform_I5 :
    (match systemStep .reference (withCode [0xE505] (base.setPsw 0x08 |> withBytes 0x8A [0x00, 0x30])) with
      | .next t => some (t.pc, t.psw, t.elrOf 1, t.epswOf 1, t.signal)
      | _ => none) = some (0x3000, 0x01, 0x0102, 0x08, none) := by
  decide

/-- Vector I7: BRK and the reference platform's Raise(2, 2). -/
theorem test_platform_I7 :
    (match systemStep .reference (withCode [0xFFFF] (base.setPsw 0x09 |> withBytes 0x04 [0x00, 0x50])) with
      | .next t => some (t.pc, t.psw, t.elrOf 2, t.epswOf 2)
      | _ => none) = some (0x5000, 0x0A, 0x0102, 0x09) := by
  decide

/-- The reference platform's gating of a maskable request by MIE and the level (R362). -/
theorem test_platform_gate : Platform.reference.take (.maskable 5) (base.setPsw 0x09) = some (.raise 1 5) ∧
    Platform.reference.take (.maskable 5) (base.setPsw 0x0A) = none ∧ Platform.reference.take (.maskable 5) base = none ∧
    Platform.reference.take (.maskable 4) (base.setPsw 0x08) = none := by
  decide

/-! ## The points of the helpers that the spec works out (95_test_vectors.md, E3) -/

theorem test_add8 : add8 0x7F 0x01 false = (0x80, ⟨false, false, true, true, true⟩) ∧
    add8 0xFF 0x01 false = (0x00, ⟨true, true, false, false, true⟩) ∧ add8 0x80 0x80 false = (0x00, ⟨true, true, false, true, false⟩) ∧
    add8 0xFF 0x00 true = (0x00, ⟨true, true, false, false, true⟩) := by decide
theorem test_sub8 : sub8 0x00 0x01 false = (0xFF, ⟨true, false, true, false, true⟩) ∧
    sub8 0x80 0x01 false = (0x7F, ⟨false, false, false, true, true⟩) ∧ (sub8 0x05 0x04 true).1 = 0x00 ∧
    (sub8 0x00 0xFF true).2.c = true := by decide
theorem test_add16_sub16 : add16 0x7FFF 0x0001 = (0x8000, ⟨false, false, true, true, true⟩) ∧
    (sub16 0x8000 0x0001).1 = 0x7FFF ∧ (sub16 0x8000 0x0001).2.ov = true := by decide

/-! ## Witnesses: for each statement with hypotheses, a state and operands that meet them all together -/

theorem witness_DecodeEncode : Instr.wellFormed (.lERnDisp16ERm 14 12 0xFFFF) = true ∧ Instr.wellFormed (.pushQRn 8) = true := by decide

theorem witness_EncodeDecode : decode [0x01, 0xF0, 0x34, 0x12, 0x77] = .ok (.blCadr 0 0x1234, [0x77]) := rfl

/-- A core at a word of no row, and one at two prefixes and then a word of no row. -/
def atIllegal : State := withCode [0x800F] base
def atPrefixedIllegal : State := withCode [0xE309, 0xFE9F, 0xE580] base

theorem witness_IllegalWordStops : atIllegal.stopped = false ∧ atIllegal.pc.getLsbD 0 = false ∧
    (∀ p ∈ ([] : List Instr), p.isDsrPrefix = true) ∧ ([] : List Instr).length < 0x8000 ∧
    BytesAtPc atIllegal (([] : List Instr).flatMap encodeBytes ++ bytesOfWords [0x800F]) ∧ decodeFirst 0x800F = .illegal := by
  refine ⟨rfl, rfl, by decide, by decide, fun j h => ?_, rfl⟩
  match j, h with
  | 0, _ => rfl
  | 1, _ => rfl

theorem witness_IllegalWordStops_prefixed : atPrefixedIllegal.stopped = false ∧ atPrefixedIllegal.pc.getLsbD 0 = false ∧
    (∀ p ∈ [Instr.dsrImm8 0x09, .dsrDSR], p.isDsrPrefix = true) ∧ [Instr.dsrImm8 0x09, .dsrDSR].length < 0x8000 ∧
    BytesAtPc atPrefixedIllegal ([Instr.dsrImm8 0x09, .dsrDSR].flatMap encodeBytes ++ bytesOfWords [0xE580]) ∧
    decodeFirst 0xE580 = .illegal := by
  refine ⟨rfl, rfl, by decide, by decide, fun j h => ?_, rfl⟩
  match j, h with
  | 0, _ => rfl
  | 1, _ => rfl
  | 2, _ => rfl
  | 3, _ => rfl
  | 4, _ => rfl
  | 5, _ => rfl

/-- A two-word instruction whose second word wraps to offset 0 of the segment (R27). -/
def atWrap : State := withCode [0xF001, 0x1234] (base.setPc 0xFFFE)

theorem witness_StepRunsInstruction : atWrap.stopped = false ∧ atWrap.pc.getLsbD 0 = false ∧
    BytesAtPc atWrap [0x01, 0xF0, 0x34, 0x12] ∧ decode [0x01, 0xF0, 0x34, 0x12] = .ok (.blCadr 0 0x1234, []) ∧
    Instr.wellFormed (.blCadr 0 0x1234) = true ∧ Instr.isDsrPrefix (.blCadr 0 0x1234) = false := by
  refine ⟨rfl, rfl, fun j h => ?_, rfl, rfl, rfl⟩
  match j, h with
  | 0, _ => rfl
  | 1, _ => rfl
  | 2, _ => rfl
  | 3, _ => rfl

/-- Two prefixes and a load. -/
def atPrefixes : State := withCode [0xE301, 0xFE9F, 0x9030] base

theorem witness_StepRunsPrefixes : atPrefixes.stopped = false ∧ atPrefixes.pc.getLsbD 0 = false ∧
    (∀ p ∈ [Instr.dsrImm8 0x01, .dsrDSR], p.isDsrPrefix = true) ∧ [Instr.dsrImm8 0x01, .dsrDSR].length < 0x8000 ∧
    Instr.wellFormed (.lRnEA 0) = true ∧ Instr.isDsrPrefix (.lRnEA 0) = false ∧
    BytesAtPc atPrefixes ([Instr.dsrImm8 0x01, .dsrDSR].flatMap encodeBytes ++ encodeBytes (.lRnEA 0)) := by
  refine ⟨rfl, rfl, by decide, by decide, rfl, rfl, fun j h => ?_⟩
  match j, h with
  | 0, _ => rfl
  | 1, _ => rfl
  | 2, _ => rfl
  | 3, _ => rfl
  | 4, _ => rfl
  | 5, _ => rfl

/-- Consecutive cells read as the function they are listed from. -/
theorem read_listed (f : Nat → Byte) (a : Nat) : ∀ (n lo : Nat), lo ≤ a → a < lo + n →
    Memory.read ((List.range' lo n).map fun x => (x, f x)) a = f a
  | 0, _, _, _ => by omega
  | n + 1, lo, h1, h2 => by
    by_cases h : lo = a
    · subst h; simp [List.range'_succ, Memory.read]
    · simp only [List.range'_succ, List.map_cons, Memory.read, if_neg h]
      exact read_listed f a n (lo + 1) (by omega) (by omega)

/-- A core whose code segment holds the prefix word 0xFE9F at every even offset. -/
def onlyPrefixes : State := base.setMem ((List.range' 0 0x10000).map fun a => (a, if a % 2 = 0 then 0x9F else 0xFE))

theorem witness_StepRunsPrefixes_endless : onlyPrefixes.stopped = false ∧ onlyPrefixes.pc.getLsbD 0 = false ∧
    ∀ off : Word, off.getLsbD 0 = false →
      ∃ w p, dataRead onlyPrefixes.mem onlyPrefixes.csr 2 off = .ok w ∧ decodeFirst w = .whole p ∧ p.isDsrPrefix = true := by
  refine ⟨rfl, rfl, fun off h => ⟨0xFE9F, .dsrDSR, ?_, rfl, rfl⟩⟩
  have h0 : off.toNat % 2 = 0 := by
    have : off.toNat.testBit 0 = false := h
    simp [Nat.testBit_zero] at this; omega
  have h1 : (off + 1).toNat = off.toNat + 1 := by have := off.isLt; simp; omega
  have hr : ∀ a < 0x10000, Memory.read onlyPrefixes.mem a = if a % 2 = 0 then 0x9F else 0xFE := fun a ha =>
    read_listed (fun a => if a % 2 = 0 then 0x9F else 0xFE) a 0x10000 0 (by omega) (by omega)
  have hs : slotWord onlyPrefixes.mem off = 0xFE9F := by
    simp only [slotWord, hr _ (off + 1).isLt, hr _ off.isLt, h0, if_true]
    rw [h1, if_neg (by omega)]
    rfl
  exact hs ▸ dataRead_segment0 onlyPrefixes.mem off

/-- The highest segment that answers whatever MemHigh is. -/
theorem witness_segmentAnswers : segmentAnswers 0x0F ∧ segmentAnswers 0x00 := ⟨.inl (by decide), .inl (by decide)⟩

theorem witness_DataAccessBytes : ((8 : Nat) = 1 ∨ (8 : Nat) = 2 ∨ (8 : Nat) = 4 ∨ (8 : Nat) = 8) ∧ segmentAnswers 0x0F ∧
    Memory.wf (withBytes 0xFFFFF [0xAA] base).mem = true := ⟨by decide, .inl (by decide), by decide⟩

theorem witness_AddressPlaces : (0xFFFFF : Address).toNat < 2 ^ 20 ∧ 2 ^ 20 ≤ (0x100000 : Address).toNat := by decide

theorem witness_FetchReadsWord : (base.setCsr 0x0F).pc.getLsbD 0 = false ∧ segmentAnswers (base.setCsr 0x0F).csr :=
  ⟨rfl, .inl (by decide)⟩

theorem witness_AddressingModes : ((2 : Nat) = 2 ∨ (2 : Nat) = 4 ∨ (2 : Nat) = 8) ∧ (0xFFFE : Word).getLsbD 0 = false ∧
    (0xFFFF : Word).getLsbD 0 = true := by decide

theorem witness_RegisterViews : ((4 : Nat) = 1 ∨ (4 : Nat) = 2 ∨ (4 : Nat) = 4 ∨ (4 : Nat) = 8) := by decide

/-- The legal numbers at the ends of their ranges: the hypotheses of PairArithmetic, PairShiftIdiom, the loads and stores, the
stack groups, BankMoves, PswAndSpMoves, LeaAndSingleBits, JumpsAndCalls and MultiplyAndDivide on registers. -/
theorem witness_registers : isER 0 = true ∧ isER 14 = true ∧ isXR 0 = true ∧ isXR 12 = true ∧ isQR 0 = true ∧ isQR 8 = true := by decide

/-- The hypotheses of the loads and stores, of the stack, of MemoryBytesChanged and of EveryInstructionCompletes on the state. -/
theorem witness_access : segmentAnswers (base.setSeg 0x0F).seg ∧ Memory.wf (base.setSeg 0x0F).mem = true ∧ Memory.wf raised.mem = true :=
  ⟨.inl (by decide), by decide, by decide⟩

/-- The first segment beyond 2^20. Which of the clauses applies, the OPEN parameter MemHigh says. -/
theorem witness_RefusedAccess : dataOffset ((base.setSeg 0x10).setEa 0x1234) (.lRnEA 0) = some 0x1234 ∧
    16 ≤ ((base.setSeg 0x10).setEa 0x1234).seg.toNat ∧ (Config.memHigh = .refuse ∨ Config.memHigh ≠ .refuse) ∧
    16 ≤ (base.setCsr 0x10).csr.toNat ∧ (base.setCsr 0x10).stopped = false :=
  ⟨rfl, by decide, by cases Config.memHigh <;> simp, by decide, rfl⟩

theorem witness_PushListLayout : Memory.wf base.mem = true := by decide

theorem witness_LeaAndSingleBits : exec .ei base = .next (base.setMIE true) ∧ exec .di base = .next (base.setMIE false) := ⟨rfl, rfl⟩

theorem witness_ConditionalBranch : (base.setPc 0xFFFE).pc.getLsbD 0 = false ∧ condHolds .ge (base.setPc 0xFFFE).psw = true ∧
    condHolds .lt (base.setPc 0xFFFE).psw = false := by decide

theorem witness_CallsReturn : base.pc.getLsbD 0 = false ∧ isER 14 = true ∧ Memory.wf base.mem = true := by decide

theorem witness_TakeException : (1 : BitVec 2) ≠ 0 ∧ (2 : BitVec 2) ≠ 0 ∧ (3 : BitVec 2) ≠ 0 := by decide

theorem witness_ReturnFromInterrupt : base.level = 0 := rfl

theorem witness_RaiseThenRti : raised.pc.getLsbD 0 = false ∧ ((0 : BitVec 2) = 0 → raised.level = 0) ∧
    (base.setPsw 0x03).pc.getLsbD 0 = false ∧ ((1 : BitVec 2) = 0 → (base.setPsw 0x03).level = 0) := by decide

theorem witness_ReferencePlatform : base.signal = none ∧ (base.setSignal (some (.swi 63))).signal = some (.swi 63) ∧
    (base.setSignal (some .brk)).signal = some .brk ∧
    (.emulator ∈ [Request.maskable 5, .emulator]) ∧
    (.emulator ∉ [Request.maskable 5, .nonMaskable] ∧ .nonMaskable ∈ [Request.maskable 5, .nonMaskable] ∧ (base.setPsw 0x02).level.toNat ≤ 2) ∧
    (.emulator ∉ [Request.maskable 63, .maskable 5, .maskable 4] ∧ .nonMaskable ∉ [Request.maskable 63, .maskable 5, .maskable 4] ∧
      pswMIE (base.setPsw 0x09).psw = true ∧ (base.setPsw 0x09).level.toNat ≤ 1 ∧
      .maskable 5 ∈ [Request.maskable 63, .maskable 5, .maskable 4] ∧ 5 ≤ (5 : BitVec 6).toNat ∧
      ∀ j : BitVec 6, .maskable j ∈ [Request.maskable 63, .maskable 5, .maskable 4] → 5 ≤ j.toNat → (5 : BitVec 6).toNat ≤ j.toNat) := by
  decide

/-- Nothing to take: a non-maskable request at level 3, a maskable one below 5 with MIE set, one with MIE clear, one at level 2. -/
theorem witness_ReferencePlatform_none :
    (.emulator ∉ [Request.nonMaskable] ∧ 2 < (base.setPsw 0x0B).level.toNat ∧
      ∀ k : BitVec 6, .maskable k ∉ [Request.nonMaskable]) ∧
    (.emulator ∉ [Request.maskable 4] ∧ .nonMaskable ∉ [Request.maskable 4] ∧ pswMIE (base.setPsw 0x08).psw = true ∧
      ∀ k : BitVec 6, .maskable k ∈ [Request.maskable 4] → ¬ 5 ≤ k.toNat) ∧
    (.nonMaskable ∉ [Request.maskable 63] ∧ pswMIE base.psw = false) ∧ 1 < (base.setPsw 0x0A).level.toNat := by decide

theorem witness_HostCalls : (3 ≤ 3 ∧ 127 ≤ 127) ∧ (3 < 4 ∨ 127 < 0) ∧ (3 < 0 ∨ 127 < 128) := by decide

/-- 99 in R0 and 1 in R1, and 0 and 99. -/
theorem witness_DecimalArithmetic : 99 < 100 ∧ 1 < 100 ∧ ((base.setR 0 0x99).setR 1 0x01).r 0 = bcd 99 ∧
    ((base.setR 0 0x99).setR 1 0x01).r 1 = bcd 1 ∧ ((base.setR 0 0x00).setR 1 0x99).r 0 = bcd 0 ∧
    ((base.setR 0 0x00).setR 1 0x99).r 1 = bcd 99 := by decide

theorem witness_ExtendByte : (0 : BitVec 3) ≠ 7 := by decide

theorem witness_RegisterBits : 7 < 8 ∧ (7 : BitVec 3).toNat < 8 := by decide

theorem witness_ResetSequence : (3 : BitVec 2) ≠ 0 := by decide

/-- A sound state other than the reset state, from which a step answers a next state. -/
theorem witness_StepKeepsSound : Sound base ∧ (∃ t, step base = .next t) ∧ ∃ t, systemStep .reference base = .next t :=
  ⟨⟨by decide, by decide, rfl, rfl, rfl⟩, ⟨_, rfl⟩, ⟨_, rfl⟩⟩

/-- A reachable state other than the reset state: memory placed, a step, an exception raised. -/
theorem witness_ReachableSound : ∃ t, step (State.reset.setMem raised.mem) = .next t ∧ Reachable ((HostCall.raise 1 9).perform t) := by
  refine ⟨_, rfl, ?_⟩
  exact .host _ (.raise 1 9) (.step _ _ (.load State.reset raised.mem .reset (by decide) (placeBytes_inSpace rfl)) rfl)

theorem witness_EveryInstructionCompletes : segmentAnswers base.seg ∧ dataOffset (base.setSeg 0xFF) (.pushQRn 8) = none ∧
    dataOffset (base.setSeg 0xFF) (.leaDisp16ERm 0 0xFFFF) = none := ⟨.inl (by decide), rfl, rfl⟩

/-- A shift by 0 completes and may change no bit of PSW; by 1 it may change C alone. -/
theorem witness_PswWriters : (∃ t, exec (.sllRnWidth 0 1) base = .next t) ∧ 6 < 8 ∧
    (touches base (.sllRnWidth 0 1)).psw.getLsbD 6 = false ∧ (touches base (.sllRnWidth 0 0)).psw.getLsbD 7 = false :=
  ⟨⟨_, rfl⟩, by decide, rfl, rfl⟩

theorem witness_SpecialRegisterWriters : (∃ t, exec .nop base = .next t) ∧
    (let x := touches base .nop; x.pc || x.csr || x.sp || x.ea || x.dsr || x.cs || x.bank || x.seg || x.signal) = false ∧
    (1 : BitVec 2) ≠ 0 := ⟨⟨_, rfl⟩, rfl, by decide⟩

theorem witness_RegisterAndMemoryWriters : (∃ t, exec (.stXRnEA 12) (base.setEa 0xFFFE) = .next t) ∧
    storedBytes (base.setEa 0xFFFE) (.stXRnEA 12) = some (0, 0xFFFE, 4) ∧
    (∀ g ∈ (touches (base.setEa 0xFFFE) (.stXRnEA 12)).regs, ¬ inGroup g.1 g.2 0) ∧
    (¬ holdsByteOf 0 0xFFFE 4 0x2) ∧ storedBytes base (.lRnEA 0) = none := by
  refine ⟨⟨_, rfl⟩, rfl, by simp [touches], ?_, rfl⟩
  rintro ⟨j, hj, hp⟩
  match j, hj with
  | 0, _ => exact absurd hp (by decide)
  | 1, _ => exact absurd hp (by decide)
  | 2, _ => exact absurd hp (by decide)
  | 3, _ => exact absurd hp (by decide)

/-- At level 1, bank 2 is neither bank 0 nor the active bank. -/
theorem witness_BankIsolation : (2 : BitVec 2) ≠ 0 ∧ (2 : BitVec 2) ≠ (base.setPsw 0x01).level ∧
    (touches (base.setPsw 0x01) (.movELRERm 2)).raises = false := by decide

theorem witness_SegmentOnlyForData : dataOffset base (.pushRn 0) = none ∧ (touches base (.pushRn 0)).seg = false := by decide

end Sys2Proof.Tests
end

/-! # 00_scope.md: refused accesses, and the states a running machine can be in -/

namespace Sys2Proof.Machine

/-! ## Segments the memory collaborator does not answer (00_scope.md R8, R12) -/

theorem not_segmentAnswers_iff {seg : Byte} : ¬ segmentAnswers seg ↔ 16 ≤ seg.toNat ∧ Config.memHigh = .refuse := by
  simp [segmentAnswers]

/-- How an instruction with a data access in a segment ends: completed where the segment answers, refused with the address
of the first byte where it does not (20_memory.md R75). -/
structure AccessOutcome (seg : Byte) (off : Word) (x : Result) : Prop where
  completes : segmentAnswers seg → ∃ t, x = .next t
  refused : ¬ segmentAnswers seg → x = .refused (.memoryRefused (address seg off))

/-- A read of one byte in a segment that does not answer is refused. -/
theorem readByte_refused (m : Memory) {seg : Byte} (h : ¬ segmentAnswers seg) (off : Word) :
    readByte m (address seg off) = .error (.memoryRefused (address seg off)) := by
  cases e : physical (address seg off) with
  | none => simp only [readByte, e]
  | some p => exact absurd (answers_of_physical e) h

theorem load_access (k : Nat) (n : RegNum) (off : Word) (ea : State → State) (s : State) :
    AccessOutcome s.seg off (load (k + 1) n off ea s) where
  completes h := by
    obtain ⟨v, hv⟩ := dataRead_ok s.mem h (k + 1) off
    exact ⟨_, load_eq hv⟩
  refused h := by
    simp only [load, dataRead_refused s.mem h k off, bind, Except.bind, finish]

theorem store_access (k : Nat) (n : RegNum) (off : Word) (ea : State → State) (s : State) :
    AccessOutcome s.seg off (store (k + 1) n off ea s) where
  completes h := by
    obtain ⟨m, hm⟩ := dataWrite_ok h (k + 1) s.mem off (s.group (k + 1) n)
    exact ⟨_, store_eq hm⟩
  refused h := by
    simp only [store, dataWrite_refused s.mem h k off, bind, Except.bind, finish]

theorem modifyByte_access (off : Word) (f psw : Byte → Byte) (s : State) :
    AccessOutcome s.seg off (modifyByte off f psw s) where
  completes h := by
    obtain ⟨p, -, e⟩ := modifyByte_spec (off := off) (f := f) (psw := psw) h
    exact ⟨_, e⟩
  refused h := by
    simp only [modifyByte, readByte_refused s.mem h off, bind, Except.bind, finish]

/-- TB of memory reads its byte alone and writes Z (47_misc.md R323). -/
theorem execTbDbitadr_eq {b : BitVec 3} {a : Word} {s : State} {p : Nat} (hp : physical (address s.seg a) = some p) :
    execTbDbitadr b a s = .next (s.setZ (!(Memory.read s.mem p).getLsbD b.toNat)) := by
  simp only [execTbDbitadr, readByte, hp, bind, Except.bind, finish]

theorem tbDbitadr_access (b : BitVec 3) (a : Word) (s : State) : AccessOutcome s.seg a (execTbDbitadr b a s) where
  completes h := by
    obtain ⟨p, hp⟩ := physical_of_answers h a
    exact ⟨_, execTbDbitadr_eq hp⟩
  refused h := by
    simp only [execTbDbitadr, readByte_refused s.mem h a, bind, Except.bind, finish]

/-- Every instruction with a data access through the segment in force is a load, a store, a byte read, changed and written
back, or TB of memory; so it ends as its access does. -/
theorem exec_access {i : Instr} {s : State} {off : Word} (h : dataOffset s i = some off) :
    AccessOutcome s.seg off (exec i s) := by
  cases i with
  | lERnEA | lERnEAInc | lERnERm | lERnDisp16ERm | lERnDisp6BP | lERnDisp6FP | lERnDadr
  | lRnEA | lRnEAInc | lRnERm | lRnDisp16ERm | lRnDisp6BP | lRnDisp6FP | lRnDadr
  | lXRnEA | lXRnEAInc | lQRnEA | lQRnEAInc =>
    obtain rfl := Option.some.inj h
    exact load_access ..
  | stERnEA | stERnEAInc | stERnERm | stERnDisp16ERm | stERnDisp6BP | stERnDisp6FP | stERnDadr
  | stRnEA | stRnEAInc | stRnERm | stRnDisp16ERm | stRnDisp6BP | stRnDisp6FP | stRnDadr
  | stXRnEA | stXRnEAInc | stQRnEA | stQRnEAInc =>
    obtain rfl := Option.some.inj h
    exact store_access ..
  | incEA | decEA | sbDbitadr | rbDbitadr =>
    obtain rfl := Option.some.inj h
    exact modifyByte_access ..
  | tbDbitadr =>
    obtain rfl := Option.some.inj h
    exact tbDbitadr_access ..
  | _ => exact absurd h (by simp [dataOffset, touches])

/-! ## Fetching from a segment that does not answer (20_memory.md R63) -/

theorem fetch16_refused {s : State} (h : ¬ segmentAnswers s.csr) :
    fetch16 s = .error (.memoryRefused (address s.csr s.pc)) := by
  simp only [fetch16, dataRead_refused s.mem h 1 s.pc, bind, Except.bind]

theorem runStep_refused {fuel : Nat} {s : State} {r : Refusal} (h : fetch16 s = .error r) :
    runStep (fuel + 1) s = .refused r := by
  simp only [runStep, fetchInstr, h]

/-- A step of a running core in a code segment that does not answer is the refusal of its first fetch. -/
theorem step_refused {s : State} (hrun : s.stopped = false) (h : ¬ segmentAnswers s.csr) :
    step s = .refused (.memoryRefused (address s.csr s.pc)) := by
  rw [step_running hrun]
  exact runStep_refused (fetch16_refused (s := (s.setSeg 0).setSignal none) h)

/-! ## What holds throughout a step

Inside a step a data segment may be in force; the other parts of `Sound` hold after every instruction of it. -/

/-- `Sound` but for the data segment in force. -/
structure Steady (s : State) : Prop where
  canonical : Memory.wf s.mem = true
  inSpace : Memory.inSpace s.mem = true
  pcEven : s.pc.getLsbD 0 = false
  running : s.stopped = false

theorem sound_iff_steady {s : State} : Sound s ↔ Steady s ∧ s.seg = 0 :=
  ⟨fun ⟨hw, hk, hp, hg, hr⟩ => ⟨⟨hw, hk, hp, hr⟩, hg⟩, fun ⟨⟨hw, hk, hp, hr⟩, hg⟩ => ⟨hw, hk, hp, hg, hr⟩⟩

/-- `Steady` speaks of memory, PC and the stopped condition alone. -/
theorem Steady.of_same {s t : State} (hs : Steady s) (hm : t.mem = s.mem) (hp : t.pc = s.pc)
    (hr : t.stopped = s.stopped) : Steady t :=
  ⟨hm ▸ hs.canonical, hm ▸ hs.inSpace, hp ▸ hs.pcEven, hr ▸ hs.running⟩

/-- Whatever is stored into PC, bit 0 is dropped (10_state.md R26). -/
theorem Steady.of_pc_masked {s t : State} {v : Word} (hs : Steady s) (hm : t.mem = s.mem) (hp : t.pc = v &&& 0xFFFE)
    (hr : t.stopped = s.stopped) : Steady t :=
  ⟨hm ▸ hs.canonical, hm ▸ hs.inSpace, hp ▸ pc_mask_even v, hr ▸ hs.running⟩

/-- Storing bytes keeps the canonical form and the key space (20_memory.md R67). -/
theorem Steady.of_stored {s t : State} {seg : Byte} {off : Word} {k : Nat} {v : BitVec (8 * k)} (hs : Steady s)
    (hm : Stored s.mem seg off k v t.mem) (hp : t.pc = s.pc) (hr : t.stopped = s.stopped) : Steady t :=
  ⟨hm.wf hs.canonical, hm.inSpace hs.inSpace, hp ▸ hs.pcEven, hr ▸ hs.running⟩

/-! ## Each shared operation keeps it -/

theorem Steady.shiftR {s : State} (hs : Steady s) (n : RegNum) (w : BitVec 3) (x : Byte × Bool) :
    Steady (shiftR n w x s) := by
  unfold Machine.shiftR
  split
  · exact hs
  · exact hs.of_same rfl rfl rfl

theorem Steady.takeException {s : State} (hs : Steady s) (l : BitVec 2) (index : BitVec 7) :
    Steady (takeException l index s) :=
  hs.of_pc_masked (takeException_mem ..) (takeException_pc ..) (takeException_stopped ..)

theorem Steady.load {k : Nat} {n : RegNum} {off : Word} {ea : State → State} {s t : State} (hs : Steady s)
    (hea : ∀ u, Steady u → Steady (ea u)) (h : load k n off ea s = .next t) : Steady t := by
  obtain ⟨v, -, rfl⟩ := load_next h
  have hflags : Steady (s.setZS v) := hs.of_same rfl rfl rfl
  exact (hea _ hflags).of_same (State.setGroup_mem ..) (State.setGroup_pc ..) (State.setGroup_stopped ..)

theorem Steady.store {k : Nat} {n : RegNum} {off : Word} {ea : State → State} {s t : State} (hs : Steady s)
    (hk : k ≤ 0x10000) (hea : ∀ u, Steady u → Steady (ea u)) (h : store k n off ea s = .next t) : Steady t := by
  obtain ⟨m, hm, rfl⟩ := store_next h
  have hstored : Steady (s.setMem m) := hs.of_stored (dataWrite_stored hk hm) rfl rfl
  exact hea _ hstored

theorem steady_keepEA (u : State) (hu : Steady u) : Steady (keepEA u) := hu

theorem steady_bumpEA (k : Nat) (u : State) (hu : Steady u) : Steady (bumpEA k u) := hu.of_same rfl rfl rfl

theorem Steady.modifyByte {off : Word} {f psw : Byte → Byte} {s t : State} (hs : Steady s)
    (h : modifyByte off f psw s = .next t) : Steady t := by
  obtain ⟨p, hp, rfl⟩ := modifyByte_next h
  exact ⟨Memory.wf_write hs.canonical, Memory.inSpace_write hs.inSpace (physical_lt_size hp), hs.pcEven, hs.running⟩

theorem Steady.tbDbitadr {b : BitVec 3} {a : Word} {s t : State} (hs : Steady s)
    (h : execTbDbitadr b a s = .next t) : Steady t := by
  cases e : physical (address s.seg a) with
  | none => simp [execTbDbitadr, readByte, e, bind, Except.bind, finish] at h
  | some p =>
    obtain rfl := Host.Outcome.next.inj ((execTbDbitadr_eq e).symm.trans h)
    exact hs.of_same rfl rfl rfl

theorem Steady.div {n m : RegNum} {s t : State} (hs : Steady s) (h : execDivERnRm n m s = .next t) : Steady t := by
  simp only [execDivERnRm] at h
  split at h
  · obtain rfl := Host.Outcome.next.inj h
    exact hs.takeException _ _
  · obtain rfl := Host.Outcome.next.inj h
    exact hs.of_same rfl rfl rfl

/-! ## The stack (43_stack.md R230, R235, R240) -/

theorem pop16_eq (s : State) : pop16 s = .ok (slotWord s.mem s.sp, s.setSp (s.sp + 2)) := by
  simp only [pop16, dataRead_segment0, bind, Except.bind]

theorem popEA_eq (s : State) : popEA s = .ok ((s.setSp (s.sp + 2)).setEa (slotWord s.mem s.sp)) := by
  simp only [popEA, pop16_eq, bind, Except.bind]

theorem popPSW_eq (s : State) :
    popPSW s = .ok ((s.setSp (s.sp + 2)).setPsw ((slotWord s.mem s.sp).extractLsb' 0 8)) := by
  simp only [popPSW, pop16_eq, bind, Except.bind]

theorem popLR_eq (s : State) : popLR s =
    .ok ((s.setSp (s.sp + 2 + 2)).setLink (slotWord s.mem s.sp) ((slotWord s.mem (s.sp + 2)).extractLsb' 0 8)) := by
  simp only [popLR, pop16_eq, bind, Except.bind]
  rfl

theorem popPC_eq (s : State) : popPC s = .ok (((s.setSp (s.sp + 2 + 2)).setPc (slotWord s.mem s.sp)).setCsr
    ((slotWord s.mem (s.sp + 2)).extractLsb' 0 8)) := by
  simp only [popPC, pop16_eq, bind, Except.bind]
  rfl

/-- A part of a stack instruction that keeps `Steady` where it answers. -/
def KeepsSteady (f : State → Except Refusal State) : Prop := ∀ s t, Steady s → f s = .ok t → Steady t

theorem KeepsSteady.bind {f g : State → Except Refusal State} (hf : KeepsSteady f) (hg : KeepsSteady g) :
    KeepsSteady fun s => f s >>= g := by
  intro s t hs h
  cases e : f s with
  | error r => simp [e, Bind.bind, Except.bind] at h
  | ok u => exact hg u t (hf s u hs e) (by simpa [e, Bind.bind, Except.bind] using h)

theorem KeepsSteady.whenSelected {f : State → Except Refusal State} (hf : KeepsSteady f) (b : Bool) :
    KeepsSteady (whenSelected b f) := by
  intro s t hs h
  cases b with
  | true => exact hf s t hs h
  | false => exact Except.ok.inj h ▸ hs

/-- An operation that always answers keeps `Steady` when its answer has it. -/
theorem KeepsSteady.of_eq_ok {f : State → Except Refusal State} (g : State → State) (hf : ∀ s, f s = .ok (g s))
    (hg : ∀ s, Steady s → Steady (g s)) : KeepsSteady f := by
  intro s t hs h
  obtain rfl := Except.ok.inj ((hf s).symm.trans h)
  exact hg s hs

theorem keepsSteady_push16 (v : Word) : KeepsSteady (push16 v) := by
  intro s t hs h
  obtain ⟨m, e, hm⟩ := push16_spec v s
  obtain rfl := Except.ok.inj (e.symm.trans h)
  exact hs.of_stored hm rfl rfl

theorem keepsSteady_pushFar (seg : Byte) (off : Word) : KeepsSteady (pushFar seg off) :=
  (keepsSteady_push16 _).bind (keepsSteady_push16 off)

theorem keepsSteady_pushGroup {k : Nat} (hk : k ≤ 16) (n : RegNum) : KeepsSteady (pushGroup k n) := by
  intro s t hs h
  obtain ⟨m, e, hm⟩ := pushGroup_spec hk n s
  obtain rfl := Except.ok.inj (e.symm.trans h)
  exact hs.of_stored hm rfl rfl

theorem keepsSteady_popGroup (k : Nat) (n : RegNum) : KeepsSteady (popGroup k n) := by
  intro s t hs h
  obtain ⟨v, -, e⟩ := popGroup_spec k n s
  obtain rfl := Except.ok.inj (e.symm.trans h)
  exact hs.of_same (State.setGroup_mem ..) (State.setGroup_pc ..) (State.setGroup_stopped ..)

theorem keepsSteady_popEA : KeepsSteady popEA := .of_eq_ok _ popEA_eq fun _ hs => hs.of_same rfl rfl rfl

theorem keepsSteady_popLR : KeepsSteady popLR := .of_eq_ok _ popLR_eq fun _ hs => hs.of_same rfl rfl rfl

theorem keepsSteady_popPSW : KeepsSteady popPSW := .of_eq_ok _ popPSW_eq fun _ hs => hs.of_same rfl rfl rfl

theorem keepsSteady_popPC : KeepsSteady popPC := .of_eq_ok _ popPC_eq fun _ hs => hs.of_pc_masked rfl rfl rfl

theorem Steady.pushList {l e p a : Bool} {s t : State} (hs : Steady s) (h : execPushList l e p a s = .next t) :
    Steady t := by
  have hkeeps := ((keepsSteady_pushFar (s.ecsrOf s.level) (s.elrOf s.level)).whenSelected p).bind <|
    ((keepsSteady_push16 ((s.epswOf s.level).zeroExtend 16)).whenSelected e).bind <|
    ((keepsSteady_pushFar s.lcsr s.lr).whenSelected l).bind ((keepsSteady_push16 s.ea).whenSelected a)
  exact hkeeps s t hs (finish_eq_next.1 h)

theorem Steady.popList {l e p a : Bool} {s t : State} (hs : Steady s) (h : execPopList l e p a s = .next t) :
    Steady t := by
  have hkeeps := (keepsSteady_popEA.whenSelected a).bind <| (keepsSteady_popLR.whenSelected l).bind <|
    (keepsSteady_popPSW.whenSelected e).bind (keepsSteady_popPC.whenSelected p)
  exact hkeeps s t hs (finish_eq_next.1 h)

/-! ## Every instruction keeps it -/

/-- A case for each group of instructions that treat memory and PC alike; those that touch neither come last. -/
theorem Steady.exec {i : Instr} {s t : State} (hs : Steady s) (h : exec i s = .next t) : Steady t := by
  cases i with
  | lERnEA | lERnERm | lERnDisp16ERm | lERnDisp6BP | lERnDisp6FP | lERnDadr
  | lRnEA | lRnERm | lRnDisp16ERm | lRnDisp6BP | lRnDisp6FP | lRnDadr | lXRnEA | lQRnEA =>
    exact hs.load steady_keepEA h
  | lERnEAInc | lRnEAInc | lXRnEAInc | lQRnEAInc => exact hs.load (steady_bumpEA _) h
  | stERnEA | stERnERm | stERnDisp16ERm | stERnDisp6BP | stERnDisp6FP | stERnDadr
  | stRnEA | stRnERm | stRnDisp16ERm | stRnDisp6BP | stRnDisp6FP | stRnDadr | stXRnEA | stQRnEA =>
    exact hs.store (by decide) steady_keepEA h
  | stERnEAInc | stRnEAInc | stXRnEAInc | stQRnEAInc => exact hs.store (by decide) (steady_bumpEA _) h
  | incEA | decEA | sbDbitadr | rbDbitadr => exact hs.modifyByte h
  | tbDbitadr => exact hs.tbDbitadr h
  | pushRn n | pushERn n | pushXRn n | pushQRn n =>
    exact keepsSteady_pushGroup (by decide) n s t hs (finish_eq_next.1 h)
  | popRn n | popERn n | popXRn n | popQRn n => exact keepsSteady_popGroup _ n s t hs (finish_eq_next.1 h)
  | pushList => exact hs.pushList h
  | popList => exact hs.popList h
  | divERnRm => exact hs.div h
  | sllRnRm | sllRnWidth | sllcRnRm | sllcRnWidth | sraRnRm | sraRnWidth | srlRnRm | srlRnWidth | srlcRnRm
  | srlcRnWidth =>
    obtain rfl := Host.Outcome.next.inj h
    exact hs.shiftR _ _ _
  | bCadr | blCadr | bERn | blERn | rt | rti =>
    obtain rfl := Host.Outcome.next.inj h
    exact hs.of_pc_masked rfl rfl rfl
  | bcond =>
    obtain rfl := Host.Outcome.next.inj h
    split
    · exact hs.of_pc_masked rfl rfl rfl
    · exact hs
  | movEPSWRm | movRnEPSW =>
    obtain rfl := Host.Outcome.next.inj h
    split
    · exact hs
    · exact hs.of_same rfl rfl rfl
  | _ =>
    obtain rfl := Host.Outcome.next.inj h
    exact hs.of_same rfl rfl rfl

/-! ## Steps and host calls keep a state sound -/

theorem Steady.fetchInstr {s s1 : State} {i : Instr} (hs : Steady s) (h : fetchInstr s = .next (i, s1)) :
    Steady s1 := by
  obtain ⟨pc, hpc, rfl⟩ := fetchInstr_state h
  exact ⟨hs.canonical, hs.inSpace, hpc, hs.running⟩

theorem step_keeps_sound {s t : State} (hs : Sound s) (h : step s = .next t) : Sound t := by
  obtain ⟨-, hrun⟩ := step_next h
  have hstart : Steady ((s.setSeg 0).setSignal none) := (sound_iff_steady.1 hs).1.of_same rfl rfl rfl
  obtain ⟨u, hu, rfl⟩ := runStep_induct (fun _ _ _ hs => hs.fetchInstr) (fun _ _ _ hs => hs.exec) hstart hrun
  exact sound_iff_steady.2 ⟨hu.of_same rfl rfl rfl, rfl⟩

/-- `Reset()` and `Raise` keep a state sound (60_exceptions.md R341, 70_reset_and_hazards.md R381). -/
theorem hostCall_keeps_sound {s : State} (hs : Sound s) (call : HostCall) : Sound (call.perform s) := by
  cases call with
  | raise level index =>
    exact sound_iff_steady.2 ⟨(sound_iff_steady.1 hs).1.takeException level index,
      (takeException_seg level index s).trans hs.noSegment⟩
  | reset => exact ⟨hs.canonical, hs.inSpace, pc_mask_even _, rfl, rfl⟩

theorem sound_reset : Sound State.reset :=
  ⟨reset_mem_wf.1, reset_mem_wf.2, pc_mask_even _, rfl, rfl⟩

theorem sound_setMem {s : State} (hs : Sound s) {m : Memory} (hwf : Memory.wf m = true)
    (hspace : Memory.inSpace m = true) : Sound (s.setMem m) :=
  ⟨hwf, hspace, hs.pcEven, hs.noSegment, hs.running⟩

end Sys2Proof.Machine

namespace Sys2Proof

open Machine

/-- Settles O26: an instruction ends as its data access does, and a step as its first fetch does. -/
theorem refusedAccess : Obligations.RefusedAccess := by
  refine ⟨fun i s off hoff hseg => ⟨fun hrefuse => ?_, fun hanswer => ?_⟩, fun s hcsr hrefuse => ?_⟩
  · exact (exec_access hoff).refused (not_segmentAnswers_iff.2 ⟨hseg, hrefuse⟩)
  · exact (exec_access hoff).completes (.inr hanswer)
  · have hno : ¬ segmentAnswers s.csr := not_segmentAnswers_iff.2 ⟨hcsr, hrefuse⟩
    exact ⟨fetch16_refused hno, fun hrun => step_refused hrun hno⟩

/-- Settles O54, by induction on how the state was reached. -/
theorem reachableSound : Obligations.ReachableSound := by
  intro s hreach
  induction hreach with
  | reset => exact sound_reset
  | load s m _ hwf hspace ih => exact sound_setMem ih hwf hspace
  | step s t _ hstep ih => exact step_keeps_sound ih hstep
  | host s call _ ih => exact hostCall_keeps_sound ih call

end Sys2Proof

/-! # 10_state.md: what a step keeps, and what each instruction may write -/

namespace Sys2Proof.Machine

/-! ## Register groups as views of the byte cells (10_state.md R22) -/

/-- A value is determined by its bytes. -/
theorem eq_of_bytes_eq {k : Nat} {v w : BitVec (8 * k)} (h : ∀ j < k, v.extractLsb' (8 * j) 8 = w.extractLsb' (8 * j) 8) :
    v = w := by
  apply BitVec.eq_of_getLsbD_eq
  intro i hi
  have hbyte := congrArg (fun x => BitVec.getLsbD x (i % 8)) (h (i / 8) (by omega))
  have hmod : i % 8 < 8 := by omega
  simpa [hmod, Nat.div_add_mod] using hbyte

/-- What is written to a register group is read back. -/
theorem State.setGroup_group (s : State) {k : Nat} (hk : k ≤ 16) (n : RegNum) (v : BitVec (8 * k)) :
    (s.setGroup k n v).group k n = v :=
  eq_of_bytes_eq fun j hj => by rw [State.group_byte _ k n j hj, State.setGroup_r_inside k s n v j hk hj]

/-- Writing a register group writes its cells and no other. -/
theorem State.setGroup_written (s : State) {k : Nat} (hk : k ≤ 16) (n : RegNum) (v : BitVec (8 * k)) :
    GroupWritten k n v s (s.setGroup k n v) :=
  ⟨fun j hj => State.setGroup_r_inside k s n v j hk hj,
    fun x hx => State.setGroup_r_outside k s n v x fun j hj e => hx ⟨j, hj, e.symm⟩⟩

theorem State.group_one (s : State) (n : RegNum) : s.group 1 n = s.r n := by
  apply BitVec.eq_of_getLsbD_eq
  intro i hi
  have h8 : i < 8 := hi
  simp only [State.group, BitVec.getLsbD_append]
  simp [h8]

theorem State.group_four (s : State) (n : RegNum) :
    s.group 4 n = s.r (n + 3) ++ s.r (n + 2) ++ s.r (n + 1) ++ s.r n := by
  have h2 : n + 1 + 1 = n + 2 := by bv_omega
  have h3 : n + 1 + 1 + 1 = n + 3 := by bv_omega
  rw [← State.group_one s (n + 3), ← h3, ← h2]
  rfl

theorem State.group_eight (s : State) (n : RegNum) :
    s.group 8 n = s.r (n + 7) ++ s.r (n + 6) ++ s.r (n + 5) ++ s.r (n + 4) ++ s.r (n + 3) ++ s.r (n + 2) ++ s.r (n + 1) ++ s.r n := by
  have h2 : n + 1 + 1 = n + 2 := by bv_omega
  have h3 : n + 1 + 1 + 1 = n + 3 := by bv_omega
  have h4 : n + 1 + 1 + 1 + 1 = n + 4 := by bv_omega
  have h := State.group_four s (n + 4)
  have h5 : n + 4 + 1 = n + 5 := by bv_omega
  have h6 : n + 4 + 2 = n + 6 := by bv_omega
  have h7 : n + 4 + 3 = n + 7 := by bv_omega
  rw [h5, h6, h7] at h
  rw [← h, ← h4, ← h3, ← h2]
  rfl

/-! ## What a platform answers (60_exceptions.md R348) -/

/-- However many host calls are made one after the other, the state stays sound. -/
theorem foldl_perform_sound (calls : List HostCall) {s : State} (hs : Sound s) :
    Sound (calls.foldl (fun t call => call.perform t) s) := by
  induction calls generalizing s with
  | nil => exact hs
  | cons call calls ih => exact ih (hostCall_keeps_sound hs call)

/-- Whatever a platform answers, the state stays sound: its answer is a list of host calls. -/
theorem Platform.deliver_keeps_sound (p : Platform) {s : State} (hs : Sound s) : Sound (p.deliver s) := by
  unfold Platform.deliver
  split
  · exact hs
  · rename_i call _
    have hcalls := foldl_perform_sound (p.answer call s) hs
    exact ⟨hcalls.canonical, hcalls.inSpace, hcalls.pcEven, hcalls.noSegment, hcalls.running⟩

/-- A step and the platform's answer to it. -/
theorem systemStep_next {p : Platform} {s t : State} (h : systemStep p s = .next t) :
    ∃ u, step s = .next u ∧ t = p.deliver u := by
  unfold systemStep at h
  split at h
  · rename_i u hu
    exact ⟨u, hu, (Host.Outcome.next.inj h).symm⟩
  · cases h
  · cases h

/-! ## What an instruction may write (10_state.md R32, R28, R36, R39 to R41, R45) -/

/-- Every bit of PSW outside the mask has the same value in `p` and in `q`. -/
def PswKept (mask p q : Byte) : Prop := ∀ k < 8, mask.getLsbD k = false → q.getLsbD k = p.getLsbD k

theorem PswKept.refl (mask p : Byte) : PswKept mask p p := fun _ _ _ => rfl

theorem PswKept.all (p q : Byte) : PswKept 0xFF p q := by
  intro k hk hmask
  have hones : ∀ j : Fin 8, (0xFF : Byte).getLsbD j.val = true := by decide
  exact absurd ((hones ⟨k, hk⟩).symm.trans hmask) (by decide)

/-- A bit inside the mask may be set or cleared. -/
theorem PswKept.setBit {mask p q : Byte} (h : PswKept mask p q) {j : Nat} (hj : j < 8) (hmask : mask.getLsbD j = true)
    (b : Bool) : PswKept mask p (setBit q j b) := by
  intro k hk hout
  have hne : k ≠ j := by rintro rfl; simp [hmask] at hout
  rw [getLsbD_setBit q hj, if_neg hne]
  exact h k hk hout

theorem PswKept.withC {mask p q : Byte} (h : PswKept mask p q) (hmask : mask.getLsbD 7 = true) (b : Bool) :
    PswKept mask p (withC q b) := h.setBit (by decide) hmask b

theorem PswKept.withZ {mask p q : Byte} (h : PswKept mask p q) (hmask : mask.getLsbD 6 = true) (b : Bool) :
    PswKept mask p (withZ q b) := h.setBit (by decide) hmask b

theorem PswKept.withMIE {mask p q : Byte} (h : PswKept mask p q) (hmask : mask.getLsbD 3 = true) (b : Bool) :
    PswKept mask p (withMIE q b) := h.setBit (by decide) hmask b

theorem PswKept.withHC {mask p q : Byte} (h : PswKept mask p q) (hmask : mask.getLsbD 2 = true) (b : Bool) :
    PswKept mask p (withHC q b) := h.setBit (by decide) hmask b

theorem PswKept.withZS {mask p q : Byte} (h : PswKept mask p q) (hz : mask.getLsbD 6 = true) (hs : mask.getLsbD 5 = true)
    {w : Nat} (v : BitVec w) : PswKept mask p (withZS q v) :=
  (h.withZ hz _).setBit (by decide) hs _

theorem PswKept.withArithKeepC {mask p q : Byte} (h : PswKept mask p q) (hz : mask.getLsbD 6 = true)
    (hs : mask.getLsbD 5 = true) (hov : mask.getLsbD 4 = true) (hhc : mask.getLsbD 2 = true) (f : Flags) :
    PswKept mask p (withArithKeepC q f) :=
  (((h.withZ hz _).setBit (by decide) hs _).setBit (by decide) hov _).withHC hhc _

theorem PswKept.withArith {p q : Byte} (h : PswKept 0xF4 p q) (f : Flags) : PswKept 0xF4 p (withArith q f) :=
  (h.withC rfl f.c).withArithKeepC rfl rfl rfl rfl f

/-- Entering an exception writes ELEVEL and MIE alone (60_exceptions.md R341, R343). -/
theorem pswKept_onEntry (l : BitVec 2) (p : Byte) : PswKept 0x0B p (pswOnEntry l p) := by
  have hlevel : PswKept 0x0B p (withLevel p l) := by
    intro k hk hout
    have hge : ¬ k < 2 := by
      intro hlt
      have hlow : ∀ j : Fin 2, (0x0B : Byte).getLsbD j.val = true := by decide
      exact absurd ((hlow ⟨k, hlt⟩).symm.trans hout) (by decide)
    have hin : k - 2 < 6 := by omega
    have hadd : 2 + (k - 2) = k := by omega
    simp only [Machine.withLevel, BitVec.getLsbD_append]
    simp [hge, hin, hadd]
  unfold pswOnEntry
  split
  · exact hlevel.withMIE rfl false
  · exact hlevel

/-- `t` differs from `s` only in what `x` names; stored bytes lie at the places that `x` gives for `s`. -/
structure Within (x : Touches) (s t : State) : Prop where
  psw : PswKept x.psw s.psw t.psw
  pc : x.pc = false → t.pc = s.pc
  csr : x.csr = false → t.csr = s.csr
  sp : x.sp = false → t.sp = s.sp
  ea : x.ea = false → t.ea = s.ea
  dsr : x.dsr = false → t.dsr = s.dsr
  cs : x.cs = false → t.cs = s.cs
  elr : x.bank = false → t.elr = s.elr
  ecsr : x.bank = false → t.ecsr = s.ecsr
  epsw : x.bank = false → ∀ l, l ≠ 0 → t.epswOf l = s.epswOf l
  seg : x.seg = false → t.seg = s.seg
  signal : x.signal = false → t.signal = s.signal
  stopped : t.stopped = s.stopped
  regs : ∀ r, (∀ g ∈ x.regs, ¬ inGroup g.1 g.2 r) → t.r r = s.r r
  stored : ∀ off k, x.store = some (off, k) → ∀ a, ¬ holdsByteOf s.seg off k a → Memory.read t.mem a = Memory.read s.mem a
  pushed : ∀ off k, x.push = some (off, k) → ∀ a, ¬ holdsByteOf 0 off k a → Memory.read t.mem a = Memory.read s.mem a
  mem : x.store = none → x.push = none → t.mem = s.mem

/-! ## One rule for each update of the state -/

section
variable {x : Touches} {s t : State}

theorem Within.refl (x : Touches) (s : State) : Within x s s :=
  ⟨.refl _ _, fun _ => rfl, fun _ => rfl, fun _ => rfl, fun _ => rfl, fun _ => rfl, fun _ => rfl, fun _ => rfl, fun _ => rfl,
    fun _ _ _ => rfl, fun _ => rfl, fun _ => rfl, rfl, fun _ _ => rfl, fun _ _ _ _ _ => rfl, fun _ _ _ _ _ => rfl,
    fun _ _ => rfl⟩

/-- What `x` names may be changed. -/
theorem free_of_true {b : Bool} (hb : b = true) {P : Prop} (h : b = false) : P := absurd (hb.symm.trans h) (by decide)

theorem Within.setPc (h : Within x s t) (hx : x.pc = true) (v : Word) : Within x s (t.setPc v) :=
  { h with pc := free_of_true hx }

theorem Within.setCsr (h : Within x s t) (hx : x.csr = true) (v : Byte) : Within x s (t.setCsr v) :=
  { h with csr := free_of_true hx }

theorem Within.setSp (h : Within x s t) (hx : x.sp = true) (v : Word) : Within x s (t.setSp v) :=
  { h with sp := free_of_true hx }

theorem Within.setEa (h : Within x s t) (hx : x.ea = true) (v : Word) : Within x s (t.setEa v) :=
  { h with ea := free_of_true hx }

theorem Within.setDsr (h : Within x s t) (hx : x.dsr = true) (v : Byte) : Within x s (t.setDsr v) :=
  { h with dsr := free_of_true hx }

theorem Within.setCs (h : Within x s t) (hx : x.cs = true) (b : Bool) : Within x s (t.setCs b) :=
  { h with cs := free_of_true hx }

theorem Within.setSeg (h : Within x s t) (hx : x.seg = true) (v : Byte) : Within x s (t.setSeg v) :=
  { h with seg := free_of_true hx }

theorem Within.setSignal (h : Within x s t) (hx : x.signal = true) (v : Option Signal) : Within x s (t.setSignal v) :=
  { h with signal := free_of_true hx }

theorem Within.setElr (h : Within x s t) (hx : x.bank = true) (l : BitVec 2) (v : Word) : Within x s (t.setElr l v) :=
  { h with elr := free_of_true hx }

theorem Within.setEcsr (h : Within x s t) (hx : x.bank = true) (l : BitVec 2) (v : Byte) : Within x s (t.setEcsr l v) :=
  { h with ecsr := free_of_true hx }

theorem Within.setLink (h : Within x s t) (hx : x.bank = true) (lr : Word) (lcsr : Byte) : Within x s (t.setLink lr lcsr) :=
  (h.setElr hx 0 lr).setEcsr hx 0 lcsr

/-- A saved PSW other than PSW itself (10_state.md R43). -/
theorem Within.setEpsw (h : Within x s t) (hx : x.bank = true) {l : BitVec 2} (hl : l ≠ 0) (v : Byte) :
    Within x s (t.setEpsw l v) :=
  { h with
    psw := by
      have hpsw : (t.setEpsw l v).psw = t.psw := (State.setEpsw_epswOf t l v 0).trans (if_neg hl)
      exact hpsw ▸ h.psw
    epsw := free_of_true hx }

theorem Within.setPsw (h : Within x s t) {p : Byte} (hp : PswKept x.psw s.psw p) : Within x s (t.setPsw p) :=
  { h with
    psw := by rw [State.setPsw_psw]; exact hp
    epsw := fun hx l hl => by rw [State.setPsw_epswOf, if_neg (Ne.symm hl)]; exact h.epsw hx l hl }

theorem Within.setArith (h : Within x s t) (hx : x.psw = 0xF4) (f : Flags) : Within x s (t.setArith f) :=
  h.setPsw (hx ▸ PswKept.withArith (hx ▸ h.psw) f)

theorem Within.setZS (h : Within x s t) (hx : x.psw = 0x60) {w : Nat} (v : BitVec w) : Within x s (t.setZS v) :=
  h.setPsw (h.psw.withZS (hx ▸ rfl) (hx ▸ rfl) v)

theorem Within.setC (h : Within x s t) (hx : x.psw = 0x80) (b : Bool) : Within x s (t.setC b) :=
  h.setPsw (h.psw.withC (hx ▸ rfl) b)

theorem Within.setZ (h : Within x s t) (hx : x.psw = 0x40) (b : Bool) : Within x s (t.setZ b) :=
  h.setPsw (h.psw.withZ (hx ▸ rfl) b)

theorem Within.setMIE (h : Within x s t) (hx : x.psw = 0x08) (b : Bool) : Within x s (t.setMIE b) :=
  h.setPsw (h.psw.withMIE (hx ▸ rfl) b)

theorem Within.setGroup (h : Within x s t) {k : Nat} {n : RegNum} (hx : (k, n) ∈ x.regs) (v : BitVec (8 * k)) :
    Within x s (t.setGroup k n v) := by
  have hr : ∀ r, (∀ g ∈ x.regs, ¬ inGroup g.1 g.2 r) → (t.setGroup k n v).r r = s.r r := fun r hout => by
    rw [State.setGroup_r_outside k t n v r fun j hj e => hout _ hx ⟨j, hj, e.symm⟩]
    exact h.regs r hout
  rw [State.setGroup_eq] at hr ⊢
  exact { h with regs := hr }

theorem Within.setEr (h : Within x s t) {n : RegNum} (hx : (2, n) ∈ x.regs) (v : Word) : Within x s (t.setEr n v) :=
  h.setGroup hx v

theorem Within.setR (h : Within x s t) {n : RegNum} (hx : (1, n) ∈ x.regs) (v : Byte) : Within x s (t.setR n v) :=
  { h with
    regs := fun r hout => by
      have hne : n ≠ r := fun e => hout _ hx ⟨0, Nat.one_pos, by simp [e]⟩
      rw [State.setR_r_ne _ _ hne]
      exact h.regs r hout }

/-- Bytes stored through the segment in force, the first change to memory (20_memory.md R67, R68). -/
theorem Within.store (h : Within x s t) {off : Word} {k : Nat} (hx : x.store = some (off, k)) (hno : x.push = none)
    {m : Memory} (hm : ∀ a, ¬ holdsByteOf s.seg off k a → Memory.read m a = Memory.read s.mem a) : Within x s (t.setMem m) :=
  { h with
    stored := fun off' k' e => by
      obtain ⟨rfl, rfl⟩ := Prod.mk.inj (Option.some.inj (hx.symm.trans e))
      exact hm
    pushed := fun _ _ e => by cases hno.symm.trans e
    mem := fun e => by cases hx.symm.trans e }

/-- Bytes stored in segment 0, the first change to memory (43_stack.md R230). -/
theorem Within.push (h : Within x s t) {off : Word} {k : Nat} (hx : x.push = some (off, k)) (hno : x.store = none)
    {m : Memory} (hm : ∀ a, ¬ holdsByteOf 0 off k a → Memory.read m a = Memory.read s.mem a) : Within x s (t.setMem m) :=
  { h with
    stored := fun _ _ e => by cases hno.symm.trans e
    pushed := fun off' k' e => by
      obtain ⟨rfl, rfl⟩ := Prod.mk.inj (Option.some.inj (hx.symm.trans e))
      exact hm
    mem := fun _ e => by cases hx.symm.trans e }

end

/-! ## Each shared operation, by its updates -/

section
variable {x : Touches} {s t : State}

theorem Within.arithR (h : Within x s t) (hp : x.psw = 0xF4) {n : RegNum} (hr : (1, n) ∈ x.regs) (y : Byte × Flags) :
    Within x s (arithR n y t) := (h.setArith hp y.2).setR hr y.1

theorem Within.arithER (h : Within x s t) (hp : x.psw = 0xF4) {n : RegNum} (hr : (2, n) ∈ x.regs) (y : Word × Flags) :
    Within x s (arithER n y t) := (h.setArith hp y.2).setEr hr y.1

theorem Within.logicR (h : Within x s t) (hp : x.psw = 0x60) {n : RegNum} (hr : (1, n) ∈ x.regs) (v : Byte) :
    Within x s (logicR n v t) := (h.setZS hp v).setR hr v

theorem Within.logicER (h : Within x s t) (hp : x.psw = 0x60) {n : RegNum} (hr : (2, n) ∈ x.regs) (v : Word) :
    Within x s (logicER n v t) := (h.setZS hp v).setEr hr v

/-- A shift writes C, CS and its register, and by 0 places nothing (41_shift.md R170). -/
theorem Within.shiftR (h : Within x s t) {w : BitVec 3} (hp : x.psw = if w = 0 then 0x00 else 0x80) (hc : x.cs = true)
    {n : RegNum} (hr : (1, n) ∈ x.regs) (y : Byte × Bool) : Within x s (shiftR n w y t) := by
  unfold Machine.shiftR
  split
  · exact h
  · rename_i hw
    rw [if_neg hw] at hp
    exact ((h.setC hp y.2).setCs hc y.2).setR hr y.1

theorem Within.bcdResult (h : Within x s t) (hp : x.psw = 0xE4) {n : RegNum} (hr : (1, n) ∈ x.regs) (v adj : Byte) (hc : Bool) :
    Within x s (bcdResult n v adj hc t) :=
  (h.setPsw (((h.psw.withC (hp ▸ rfl) _).withHC (hp ▸ rfl) hc).withZS (hp ▸ rfl) (hp ▸ rfl) v)).setR hr v

/-- Taking an exception writes the PSW bits of R341, PC, CSR and bank cells (60_exceptions.md R341). -/
theorem Within.takeException (h : Within x s s) (hp : x.psw = 0x0B) (hpc : x.pc = true) (hcsr : x.csr = true)
    (hbank : x.bank = true) (l : BitVec 2) (index : BitVec 7) : Within x s (takeException l index s) := by
  have hsaved := (h.setElr hbank l s.pc).setEcsr hbank l s.csr
  have hpsw : PswKept x.psw s.psw (pswOnEntry l s.psw) := hp ▸ pswKept_onEntry l s.psw
  unfold Machine.takeException
  simp only
  split
  · exact ((hsaved.setPsw hpsw).setCsr hcsr 0).setPc hpc _
  · rename_i hl
    exact (((hsaved.setEpsw hbank hl s.psw).setPsw hpsw).setCsr hcsr 0).setPc hpc _

theorem Within.load {k : Nat} {n : RegNum} {off : Word} {ea : State → State} (hp : x.psw = 0x60)
    (hr : (k, n) ∈ x.regs) (hea : ∀ u, Within x s u → Within x s (ea u)) (h : load k n off ea s = .next t) : Within x s t := by
  obtain ⟨v, -, rfl⟩ := load_next h
  have hflags := (Within.refl x s).setZS hp v
  exact (hea _ hflags).setGroup hr v

theorem Within.storeGroup {k : Nat} {n : RegNum} {off : Word} {ea : State → State} (hk : k ≤ 0x10000)
    (hs : x.store = some (off, k)) (hno : x.push = none) (hea : ∀ u, Within x s u → Within x s (ea u))
    (h : Machine.store k n off ea s = .next t) : Within x s t := by
  obtain ⟨m, hm, rfl⟩ := store_next h
  exact hea _ ((Within.refl x s).store hs hno (dataWrite_stored hk hm).outside)

theorem within_keepEA (u : State) (hu : Within x s u) : Within x s (keepEA u) := hu

theorem within_bumpEA (hx : x.ea = true) (k : Nat) (u : State) (hu : Within x s u) : Within x s (bumpEA k u) :=
  hu.setEa hx _

theorem Within.modifyByte {off : Word} {f psw : Byte → Byte} (hs : x.store = some (off, 1)) (hno : x.push = none)
    (hpsw : ∀ b, PswKept x.psw s.psw (psw b)) (h : modifyByte off f psw s = .next t) : Within x s t := by
  obtain ⟨p, hp, rfl⟩ := modifyByte_next h
  refine ((Within.refl x s).store hs hno fun a ha => Memory.read_write_ne _ ?_).setPsw (hpsw _)
  rintro rfl
  exact ha ⟨0, Nat.one_pos, hp⟩

theorem Within.tbDbitadr {b : BitVec 3} {a : Word} (hp : x.psw = 0x40) (h : execTbDbitadr b a s = .next t) :
    Within x s t := by
  cases e : physical (address s.seg a) with
  | none => simp [execTbDbitadr, readByte, e, bind, Except.bind, finish] at h
  | some p =>
    obtain rfl := Host.Outcome.next.inj ((execTbDbitadr_eq e).symm.trans h)
    exact (Within.refl x s).setZ hp _

/-! ## The stack (43_stack.md R230, R235, R240) -/

theorem Within.pushGroup {k : Nat} {n : RegNum} (hk : k ≤ 16) (hs : x.push = some (s.sp - stackBytes k, k))
    (hno : x.store = none) (hsp : x.sp = true) (h : pushGroup k n s = .ok t) : Within x s t := by
  obtain ⟨m, e, hm⟩ := pushGroup_spec hk n s
  obtain rfl := Except.ok.inj (e.symm.trans h)
  exact ((Within.refl x s).setSp hsp _).push hs hno hm.outside

theorem Within.popGroup {k : Nat} {n : RegNum} (hr : (k, n) ∈ x.regs) (hsp : x.sp = true) (h : popGroup k n s = .ok t) :
    Within x s t := by
  obtain ⟨v, -, e⟩ := popGroup_spec k n s
  obtain rfl := Except.ok.inj (e.symm.trans h)
  exact ((Within.refl x s).setSp hsp _).setGroup hr v

/-- A part of a POP list that answers leads from states within `x` of `s` to states within `x` of `s`. -/
def StaysWithin (x : Touches) (s : State) (f : State → Except Refusal State) : Prop :=
  ∀ t u, Within x s t → f t = .ok u → Within x s u

theorem StaysWithin.bind {f g : State → Except Refusal State} (hf : StaysWithin x s f) (hg : StaysWithin x s g) :
    StaysWithin x s fun t => f t >>= g := by
  intro t u ht h
  cases e : f t with
  | error r => simp [e, Bind.bind, Except.bind] at h
  | ok v => exact hg v u (hf t v ht e) (by simpa [e, Bind.bind, Except.bind] using h)

/-- An item that is not selected changes nothing, so only a selected one needs its permission. -/
theorem StaysWithin.whenSelected {f : State → Except Refusal State} {b : Bool} (hf : b = true → StaysWithin x s f) :
    StaysWithin x s (whenSelected b f) := by
  intro t u ht h
  cases b with
  | true => exact hf rfl t u ht h
  | false => exact Except.ok.inj h ▸ ht

theorem staysWithin_popEA (hsp : x.sp = true) (hea : x.ea = true) : StaysWithin x s popEA := by
  intro t u ht h
  obtain rfl := Except.ok.inj ((popEA_eq t).symm.trans h)
  exact (ht.setSp hsp _).setEa hea _

theorem staysWithin_popLR (hsp : x.sp = true) (hbank : x.bank = true) : StaysWithin x s popLR := by
  intro t u ht h
  obtain rfl := Except.ok.inj ((popLR_eq t).symm.trans h)
  exact (ht.setSp hsp _).setLink hbank _ _

theorem staysWithin_popPSW (hsp : x.sp = true) (hpsw : x.psw = 0xFF) : StaysWithin x s popPSW := by
  intro t u ht h
  obtain rfl := Except.ok.inj ((popPSW_eq t).symm.trans h)
  exact (ht.setSp hsp _).setPsw (hpsw ▸ .all _ _)

theorem staysWithin_popPC (hsp : x.sp = true) (hpc : x.pc = true) (hcsr : x.csr = true) : StaysWithin x s popPC := by
  intro t u ht h
  obtain rfl := Except.ok.inj ((popPC_eq t).symm.trans h)
  exact ((ht.setSp hsp _).setPc hpc _).setCsr hcsr _

theorem Within.popList {l e p a : Bool} (h : execPopList l e p a s = .next t) :
    Within (touches s (.popList l e p a)) s t := by
  have hstays : StaysWithin (touches s (.popList l e p a)) s _ :=
    (StaysWithin.whenSelected fun ha : a = true => staysWithin_popEA rfl ha).bind <|
    (StaysWithin.whenSelected fun hl : l = true => staysWithin_popLR rfl hl).bind <|
    (StaysWithin.whenSelected fun he : e = true => staysWithin_popPSW rfl (if_pos he)).bind <|
    StaysWithin.whenSelected fun hp : p = true => staysWithin_popPC rfl hp hp
  exact hstays s t (.refl _ s) (finish_eq_next.1 h)

/-- `b` bytes have been pushed: SP is lower by `b`, and of memory only the bytes from the new SP up to the old one have
changed (43_stack.md R230). -/
structure BytesPushed (b : Nat) (s t : State) : Prop where
  only : t = (s.setSp (s.sp - BitVec.ofNat 16 b)).setMem t.mem
  outside : ∀ a, ¬ holdsByteOf 0 (s.sp - BitVec.ofNat 16 b) b a → Memory.read t.mem a = Memory.read s.mem a

theorem BytesPushed.refl (s : State) : BytesPushed 0 s s where
  only := by simp [State.setSp, State.setMem]
  outside _ _ := rfl

theorem BytesPushed.trans {b c : Nat} {u : State} (hst : BytesPushed b s t) (htu : BytesPushed c t u) :
    BytesPushed (b + c) s u := by
  have hsp : t.sp = s.sp - BitVec.ofNat 16 b := by rw [hst.only]; rfl
  have hlow : t.sp - BitVec.ofNat 16 c = s.sp - BitVec.ofNat 16 (b + c) := by
    rw [hsp, BitVec.ofNat_add]; bv_omega
  constructor
  · rw [← hlow, htu.only, hst.only]; rfl
  · intro a ha
    rw [htu.outside a, hst.outside a]
    · rintro ⟨j, hj, e⟩
      refine ha ⟨j + c, by omega, ?_⟩
      rw [← e, placeOf, placeOf, BitVec.ofNat_add, BitVec.ofNat_add]
      congr 2; bv_omega
    · rintro ⟨j, hj, e⟩
      exact ha ⟨j, by omega, hlow ▸ e⟩

/-- A part of a PUSH list pushes `b` bytes where it answers. -/
def PushesBytes (b : Nat) (f : State → Except Refusal State) : Prop := ∀ s t, f s = .ok t → BytesPushed b s t

theorem PushesBytes.bind {b c : Nat} {f g : State → Except Refusal State} (hf : PushesBytes b f) (hg : PushesBytes c g) :
    PushesBytes (b + c) fun t => f t >>= g := by
  intro s u h
  cases e : f s with
  | error r => simp [e, Bind.bind, Except.bind] at h
  | ok t => exact (hf s t e).trans (hg t u (by simpa [e, Bind.bind, Except.bind] using h))

theorem PushesBytes.whenSelected {b : Nat} {f : State → Except Refusal State} (hf : PushesBytes b f) (c : Bool) :
    PushesBytes (if c then b else 0) (whenSelected c f) := by
  intro s t h
  cases c with
  | true => exact hf s t h
  | false => exact Except.ok.inj h ▸ .refl s

theorem pushesBytes_push16 (v : Word) : PushesBytes 2 (push16 v) := by
  intro s t h
  obtain ⟨m, e, hm⟩ := push16_spec v s
  obtain rfl := Except.ok.inj (e.symm.trans h)
  exact ⟨rfl, hm.outside⟩

theorem pushesBytes_pushFar (seg : Byte) (off : Word) : PushesBytes 4 (pushFar seg off) :=
  (pushesBytes_push16 _).bind (pushesBytes_push16 off)

/-- The items of a PUSH list take two bytes for each word (43_stack.md R235). -/
theorem pushedItems_bytes (l e p a : Bool) (s : State) : 2 * (pushedItems l e p a s).length =
    (if p then 4 else 0) + ((if e then 2 else 0) + ((if l then 4 else 0) + (if a then 2 else 0))) := by
  cases l <;> cases e <;> cases p <;> cases a <;> rfl

theorem Within.pushList {l e p a : Bool} (h : execPushList l e p a s = .next t) :
    Within (touches s (.pushList l e p a)) s t := by
  have hpushes := ((pushesBytes_pushFar (s.ecsrOf s.level) (s.elrOf s.level)).whenSelected p).bind <|
    ((pushesBytes_push16 ((s.epswOf s.level).zeroExtend 16)).whenSelected e).bind <|
    ((pushesBytes_pushFar s.lcsr s.lr).whenSelected l).bind ((pushesBytes_push16 s.ea).whenSelected a)
  rw [← pushedItems_bytes l e p a s] at hpushes
  have hpushed := hpushes s t (finish_eq_next.1 h)
  rw [hpushed.only]
  exact ((Within.refl _ s).setSp rfl _).push rfl rfl hpushed.outside

theorem Within.div {n m : RegNum} (h : execDivERnRm n m s = .next t) : Within (touches s (.divERnRm n m)) s t := by
  simp only [execDivERnRm] at h
  split at h
  · rename_i hzero
    obtain rfl := Host.Outcome.next.inj h
    have hraises : (s.r m == 0) = true := by simp [hzero]
    exact (Within.refl _ s).takeException (if_pos hzero) hraises hraises hraises _ _
  · rename_i hzero
    obtain rfl := Host.Outcome.next.inj h
    have hmask : (touches s (.divERnRm n m)).psw = 0xC0 := if_neg hzero
    have hpsw := (Within.refl (touches s (.divERnRm n m)) s).psw.withC (hmask ▸ rfl) false
    exact (((Within.refl _ s).setPsw (hpsw.withZ (hmask ▸ rfl) _)).setR (.head _) _).setEr (.tail _ (.head _)) _

end

/-! ## Every instruction stays within its row -/

/-- A case for each group of instructions with the same effect. -/
theorem exec_within {i : Instr} {s t : State} (h : exec i s = .next t) : Within (touches s i) s t := by
  have hs := Within.refl (touches s i) s
  cases i with
  | addRnRm | addRnImm8 | addcRnRm | addcRnImm8 | subRnRm | subcRnRm | negRn =>
    obtain rfl := Host.Outcome.next.inj h
    exact hs.arithR rfl (.head _) _
  | addERnERm | addERnImm7 =>
    obtain rfl := Host.Outcome.next.inj h
    exact hs.arithER rfl (.head _) _
  | cmpRnRm | cmpRnImm8 | cmpcRnRm | cmpcRnImm8 | cmpERnERm =>
    obtain rfl := Host.Outcome.next.inj h
    exact hs.setArith rfl _
  | andRnRm | andRnImm8 | orRnRm | orRnImm8 | xorRnRm | xorRnImm8 | movRnRm | movRnImm8 =>
    obtain rfl := Host.Outcome.next.inj h
    exact hs.logicR rfl (.head _) _
  | movERnERm | movERnImm7 | extbwER0 | extbwER2 | extbwER4 | extbwER6 | extbwER8 | extbwER10 | extbwER12 | extbwER14 =>
    obtain rfl := Host.Outcome.next.inj h
    exact hs.logicER rfl (.head _) _
  | sllRnRm | sllRnWidth | sllcRnRm | sllcRnWidth | sraRnRm | sraRnWidth | srlRnRm | srlRnWidth | srlcRnRm
  | srlcRnWidth =>
    obtain rfl := Host.Outcome.next.inj h
    exact hs.shiftR rfl rfl (.head _) _
  | lERnEA | lERnERm | lERnDisp16ERm | lERnDisp6BP | lERnDisp6FP | lERnDadr
  | lRnEA | lRnERm | lRnDisp16ERm | lRnDisp6BP | lRnDisp6FP | lRnDadr | lXRnEA | lQRnEA =>
    exact .load rfl (.head _) within_keepEA h
  | lERnEAInc | lRnEAInc | lXRnEAInc | lQRnEAInc => exact .load rfl (.head _) (within_bumpEA rfl _) h
  | stERnEA | stERnERm | stERnDisp16ERm | stERnDisp6BP | stERnDisp6FP | stERnDadr
  | stRnEA | stRnERm | stRnDisp16ERm | stRnDisp6BP | stRnDisp6FP | stRnDadr | stXRnEA | stQRnEA =>
    exact .storeGroup (by decide) rfl rfl within_keepEA h
  | stERnEAInc | stRnEAInc | stXRnEAInc | stQRnEAInc =>
    exact .storeGroup (by decide) rfl rfl (within_bumpEA rfl _) h
  | incEA | decEA =>
    exact .modifyByte rfl rfl (fun _ => PswKept.withArithKeepC (mask := 0x74) hs.psw rfl rfl rfl rfl _) h
  | sbDbitadr | rbDbitadr => exact .modifyByte rfl rfl (fun _ => PswKept.withZ (mask := 0x40) hs.psw rfl _) h
  | tbDbitadr => exact .tbDbitadr rfl h
  | pushRn | pushERn | pushXRn | pushQRn => exact .pushGroup (by decide) rfl rfl rfl (finish_eq_next.1 h)
  | popRn | popERn | popXRn | popQRn => exact .popGroup (.head _) rfl (finish_eq_next.1 h)
  | pushList => exact .pushList h
  | popList => exact .popList h
  | divERnRm => exact .div h
  | daaRn | dasRn =>
    obtain rfl := Host.Outcome.next.inj h
    exact hs.bcdResult rfl (.head _) _ _ _
  | mulERnRm =>
    obtain rfl := Host.Outcome.next.inj h
    exact (hs.setZ rfl _).setEr (.head _) _
  | sbRn | rbRn =>
    obtain rfl := Host.Outcome.next.inj h
    exact (hs.setZ rfl _).setR (.head _) _
  | tbRn =>
    obtain rfl := Host.Outcome.next.inj h
    exact hs.setZ rfl _
  | movECSRRm =>
    obtain rfl := Host.Outcome.next.inj h
    exact hs.setEcsr rfl _ _
  | movELRERm =>
    obtain rfl := Host.Outcome.next.inj h
    exact hs.setElr rfl _ _
  | movEPSWRm =>
    obtain rfl := Host.Outcome.next.inj h
    split
    · exact hs
    · rename_i hl
      exact hs.setEpsw rfl hl _
  | movRnEPSW =>
    obtain rfl := Host.Outcome.next.inj h
    split
    · exact hs
    · exact hs.setR (.head _) _
  | movRnECSR | movRnPSW =>
    obtain rfl := Host.Outcome.next.inj h
    exact hs.setR (.head _) _
  | movERnELR | movERnSP =>
    obtain rfl := Host.Outcome.next.inj h
    exact hs.setEr (.head _) _
  | movPSWRm | movPSWImm8 =>
    obtain rfl := Host.Outcome.next.inj h
    exact hs.setPsw (.all _ _)
  | movSPERm | addSPImm8 =>
    obtain rfl := Host.Outcome.next.inj h
    exact hs.setSp rfl _
  | leaERm | leaDisp16ERm | leaDadr =>
    obtain rfl := Host.Outcome.next.inj h
    exact hs.setEa rfl _
  | ei | di =>
    obtain rfl := Host.Outcome.next.inj h
    exact hs.setMIE rfl _
  | sc | rc | cplc =>
    obtain rfl := Host.Outcome.next.inj h
    exact hs.setC rfl _
  | bcond =>
    obtain rfl := Host.Outcome.next.inj h
    split
    · exact hs.setPc rfl _
    · exact hs
  | bERn =>
    obtain rfl := Host.Outcome.next.inj h
    exact hs.setPc rfl _
  | bCadr | rt =>
    obtain rfl := Host.Outcome.next.inj h
    exact (hs.setCsr rfl _).setPc rfl _
  | blCadr =>
    obtain rfl := Host.Outcome.next.inj h
    exact ((hs.setLink rfl _ _).setCsr rfl _).setPc rfl _
  | blERn =>
    obtain rfl := Host.Outcome.next.inj h
    exact (hs.setLink rfl _ _).setPc rfl _
  | rti =>
    obtain rfl := Host.Outcome.next.inj h
    exact ((hs.setCsr rfl _).setPc rfl _).setPsw (.all _ _)
  | swi | brk =>
    obtain rfl := Host.Outcome.next.inj h
    exact hs.setSignal rfl _
  | nop =>
    obtain rfl := Host.Outcome.next.inj h
    exact hs
  | dsrImm8 | dsrRd =>
    obtain rfl := Host.Outcome.next.inj h
    exact (hs.setDsr rfl _).setSeg rfl _
  | dsrDSR =>
    obtain rfl := Host.Outcome.next.inj h
    exact hs.setSeg rfl _

/-! ## Replacing the cells of a bank that is neither bank 0 nor the active one (10_state.md R44, R45)

The replacement changes no other cell and commutes with every update that leaves its bank alone. -/

section
variable {l : BitVec 2} (v : Word) (c p : Byte) (s : State)

theorem withBank_setR (n : RegNum) (b : Byte) : (withBank s l v c p).setR n b = withBank (s.setR n b) l v c p := rfl

theorem withBank_group (k : Nat) (n : RegNum) : (withBank s l v c p).group k n = s.group k n :=
  State.group_congr (s := withBank s l v c p) (t := s) rfl k n

theorem withBank_setGroup (n : RegNum) : ∀ (k : Nat) (b : BitVec (8 * k)),
    (withBank s l v c p).setGroup k n b = withBank (s.setGroup k n b) l v c p := by
  intro k
  induction k generalizing s n with
  | zero => exact fun _ => rfl
  | succ k ih => exact fun b => ih (s.setR n (b.extractLsb' 0 8)) (n + 1) (b.extractLsb' 8 (8 * k))

theorem withBank_elrOf {i : BitVec 2} (hi : l ≠ i) : (withBank s l v c p).elrOf i = s.elrOf i :=
  (State.setElr_elrOf s l v i).trans (if_neg hi)

theorem withBank_ecsrOf {i : BitVec 2} (hi : l ≠ i) : (withBank s l v c p).ecsrOf i = s.ecsrOf i :=
  (State.setEcsr_ecsrOf (s.setElr l v) l c i).trans (if_neg hi)

theorem withBank_epswOf {i : BitVec 2} (hi : l ≠ i) : (withBank s l v c p).epswOf i = s.epswOf i :=
  (State.setEpsw_epswOf ((s.setElr l v).setEcsr l c) l p i).trans (if_neg hi)

theorem withBank_setElr {i : BitVec 2} (hi : l ≠ i) (w : Word) :
    (withBank s l v c p).setElr i w = withBank (s.setElr i w) l v c p := by
  have hcomm := Vector.set_comm v w (xs := s.elr) (hi := l.isLt) (hj := i.isLt) (mt BitVec.eq_of_toNat_eq hi)
  exact congrArg (fun cells => { withBank s l v c p with elr := cells }) hcomm

theorem withBank_setEcsr {i : BitVec 2} (hi : l ≠ i) (b : Byte) :
    (withBank s l v c p).setEcsr i b = withBank (s.setEcsr i b) l v c p := by
  have hcomm := Vector.set_comm c b (xs := s.ecsr) (hi := l.isLt) (hj := i.isLt) (mt BitVec.eq_of_toNat_eq hi)
  exact congrArg (fun cells => { withBank s l v c p with ecsr := cells }) hcomm

theorem withBank_setEpsw {i : BitVec 2} (hi : l ≠ i) (b : Byte) :
    (withBank s l v c p).setEpsw i b = withBank (s.setEpsw i b) l v c p := by
  have hcomm := Vector.set_comm p b (xs := s.epsw) (hi := l.isLt) (hj := i.isLt) (mt BitVec.eq_of_toNat_eq hi)
  exact congrArg (fun cells => { withBank s l v c p with epsw := cells }) hcomm

end

/-! ## Bank 0 is kept: PSW, its fields and the linkage (10_state.md R43) -/

section
variable {l : BitVec 2} (hl : l ≠ 0) (v : Word) (c p : Byte) (s : State)
include hl

theorem withBank_psw : (withBank s l v c p).psw = s.psw := withBank_epswOf v c p s hl

theorem withBank_level : (withBank s l v c p).level = s.level := congrArg pswLevel (withBank_psw hl v c p s)

theorem withBank_c : (withBank s l v c p).c = s.c := congrArg pswC (withBank_psw hl v c p s)

theorem withBank_hc : (withBank s l v c p).hc = s.hc := congrArg pswHC (withBank_psw hl v c p s)

/-- A change of PSW computed from PSW. -/
theorem withBank_mapPsw (f : Byte → Byte) :
    (withBank s l v c p).setPsw (f (withBank s l v c p).psw) = withBank (s.setPsw (f s.psw)) l v c p := by
  rw [withBank_psw hl]
  exact withBank_setEpsw v c p s hl _

theorem withBank_setPsw (q : Byte) : (withBank s l v c p).setPsw q = withBank (s.setPsw q) l v c p :=
  withBank_setEpsw v c p s hl q

theorem withBank_setLink (lr : Word) (lcsr : Byte) :
    (withBank s l v c p).setLink lr lcsr = withBank (s.setLink lr lcsr) l v c p := by
  rw [State.setLink, withBank_setElr v c p s hl, withBank_setEcsr v c p _ hl]
  rfl

theorem withBank_setArith (f : Flags) : (withBank s l v c p).setArith f = withBank (s.setArith f) l v c p :=
  withBank_mapPsw hl v c p s fun q => withArith q f

theorem withBank_setZS {w : Nat} (x : BitVec w) : (withBank s l v c p).setZS x = withBank (s.setZS x) l v c p :=
  withBank_mapPsw hl v c p s fun q => withZS q x

theorem withBank_setC (b : Bool) : (withBank s l v c p).setC b = withBank (s.setC b) l v c p :=
  withBank_mapPsw hl v c p s fun q => withC q b

theorem withBank_setZ (b : Bool) : (withBank s l v c p).setZ b = withBank (s.setZ b) l v c p :=
  withBank_mapPsw hl v c p s fun q => withZ q b

theorem withBank_setMIE (b : Bool) : (withBank s l v c p).setMIE b = withBank (s.setMIE b) l v c p :=
  withBank_mapPsw hl v c p s fun q => withMIE q b

/-! ## The shared effects -/

theorem withBank_arithR (n : RegNum) (x : Byte × Flags) :
    arithR n x (withBank s l v c p) = withBank (arithR n x s) l v c p :=
  congrArg (fun t => t.setR n x.1) (withBank_setArith hl v c p s x.2)

theorem withBank_logicR (n : RegNum) (x : Byte) : logicR n x (withBank s l v c p) = withBank (logicR n x s) l v c p :=
  congrArg (fun t => t.setR n x) (withBank_setZS hl v c p s x)

theorem withBank_arithER (n : RegNum) (x : Word × Flags) :
    arithER n x (withBank s l v c p) = withBank (arithER n x s) l v c p := by
  rw [arithER, withBank_setArith hl]
  exact withBank_setGroup v c p _ n 2 x.1

theorem withBank_logicER (n : RegNum) (x : Word) :
    logicER n x (withBank s l v c p) = withBank (logicER n x s) l v c p := by
  rw [logicER, withBank_setZS hl]
  exact withBank_setGroup v c p _ n 2 x

theorem withBank_shiftR (n : RegNum) (w : BitVec 3) (x : Byte × Bool) :
    shiftR n w x (withBank s l v c p) = withBank (shiftR n w x s) l v c p := by
  unfold shiftR
  split
  · rfl
  · rw [withBank_setC hl]; rfl

theorem withBank_bcdResult (n : RegNum) (x adj : Byte) (hc : Bool) :
    bcdResult n x adj hc (withBank s l v c p) = withBank (bcdResult n x adj hc s) l v c p := by
  rw [bcdResult, withBank_c hl, withBank_psw hl, withBank_setPsw hl]
  rfl

theorem withBank_returnFromException (hlv : l ≠ s.level) :
    returnFromException (withBank s l v c p) = withBank (returnFromException s) l v c p := by
  simp only [returnFromException, withBank_level hl, withBank_ecsrOf v c p s hlv, withBank_elrOf v c p s hlv,
    withBank_epswOf v c p s hlv]
  exact withBank_setPsw hl v c p ((s.setCsr (s.ecsrOf s.level)).setPc (s.elrOf s.level)) _

end

/-! ## Operations that may be refused -/

/-- An operation neither reads nor writes bank `l`: replacing the cells of the bank before it or after it is the same. -/
def IgnoresBank (l : BitVec 2) (f : State → Except Refusal State) : Prop :=
  ∀ (v : Word) (c p : Byte) (s : State), f (withBank s l v c p) = (f s).map fun t => withBank t l v c p

section
variable {l : BitVec 2}

theorem IgnoresBank.bind {f g : State → Except Refusal State} (hf : IgnoresBank l f) (hg : IgnoresBank l g) :
    IgnoresBank l fun s => f s >>= g := by
  intro v c p s
  simp only [hf v c p s]
  cases f s with
  | error r => rfl
  | ok t => exact hg v c p t

theorem IgnoresBank.whenSelected {f : State → Except Refusal State} (hf : IgnoresBank l f) (b : Bool) :
    IgnoresBank l (whenSelected b f) := by
  intro v c p s
  cases b with
  | true => exact hf v c p s
  | false => rfl

/-- An operation that always answers, by its answer. -/
theorem IgnoresBank.of_eq_ok {f : State → Except Refusal State} (g : State → State) (hf : ∀ s, f s = .ok (g s))
    (hg : ∀ v c p s, g (withBank s l v c p) = withBank (g s) l v c p) : IgnoresBank l f := by
  intro v c p s
  rw [hf, hf, hg]
  rfl

/-- An operation that reads or writes memory and then updates the state. -/
theorem IgnoresBank.of_access {α : Type} {f : State → Except Refusal State} (acc : State → Except Refusal α)
    (g : α → State → State) (hf : ∀ s, f s = (acc s).map fun x => g x s)
    (hacc : ∀ v c p s, acc (withBank s l v c p) = acc s)
    (hg : ∀ x v c p s, g x (withBank s l v c p) = withBank (g x s) l v c p) : IgnoresBank l f := by
  intro v c p s
  rw [hf, hf, hacc]
  cases acc s with
  | error r => rfl
  | ok x => exact congrArg Except.ok (hg x v c p s)

/-- An instruction whose effect is one such operation. -/
theorem IgnoresBank.finish {f : State → Except Refusal State} (hf : IgnoresBank l f) (v : Word) (c p : Byte) (s : State) :
    finish (f (withBank s l v c p)) = onNext (fun t => withBank t l v c p) (finish (f s)) := by
  rw [hf v c p s]
  cases f s <;> rfl

theorem bind_ok_eq_map {α β : Type} (x : Except Refusal α) (f : α → β) : (x >>= fun a => .ok (f a)) = x.map f := by
  cases x <;> rfl

/-- EA changes alike before and after a replacement of the bank. -/
def EaIgnoresBank (l : BitVec 2) (ea : State → State) : Prop :=
  ∀ (v : Word) (c p : Byte) (s : State), ea (withBank s l v c p) = withBank (ea s) l v c p

theorem eaIgnoresBank_keepEA : EaIgnoresBank l keepEA := fun _ _ _ _ => rfl

theorem eaIgnoresBank_bumpEA (k : Nat) : EaIgnoresBank l (bumpEA k) := fun _ _ _ _ => rfl

theorem load_withBank (hl : l ≠ 0) {k : Nat} {n : RegNum} {off : Word} {ea : State → State} (hea : EaIgnoresBank l ea)
    (v : Word) (c p : Byte) (s : State) :
    load k n off ea (withBank s l v c p) = onNext (fun t => withBank t l v c p) (load k n off ea s) := by
  refine IgnoresBank.finish (.of_access (fun s => dataRead s.mem s.seg k off) (fun x s => (ea (s.setZS x)).setGroup k n x)
    (fun _ => bind_ok_eq_map _ _) (fun _ _ _ _ => rfl) fun x v c p s => ?_) v c p s
  rw [withBank_setZS hl, hea, withBank_setGroup]

theorem store_withBank {k : Nat} {n : RegNum} {off : Word} {ea : State → State} (hea : EaIgnoresBank l ea)
    (v : Word) (c p : Byte) (s : State) :
    store k n off ea (withBank s l v c p) = onNext (fun t => withBank t l v c p) (store k n off ea s) := by
  refine IgnoresBank.finish (.of_access (fun s => dataWrite s.mem s.seg k off (s.group k n)) (fun m s => ea (s.setMem m))
    (fun _ => bind_ok_eq_map _ _) (fun v c p s => ?_) fun m v c p s => hea v c p (s.setMem m)) v c p s
  rw [withBank_group]
  rfl

theorem modifyByte_withBank (hl : l ≠ 0) {off : Word} {f psw : Byte → Byte} (v : Word) (c p : Byte) (s : State) :
    modifyByte off f psw (withBank s l v c p) = onNext (fun t => withBank t l v c p) (modifyByte off f psw s) := by
  have hmem : (withBank s l v c p).mem = s.mem := rfl
  have hseg : (withBank s l v c p).seg = s.seg := rfl
  cases hread : readByte s.mem (address s.seg off) with
  | error r => simp only [modifyByte, hmem, hseg, hread, bind, Except.bind, finish, onNext]
  | ok a =>
    cases hwrite : writeByte s.mem (address s.seg off) (f a) with
    | error r => simp only [modifyByte, hmem, hseg, hread, hwrite, bind, Except.bind, finish, onNext]
    | ok m =>
      simp only [modifyByte, hmem, hseg, hread, hwrite, bind, Except.bind, finish, onNext]
      exact congrArg Host.Outcome.next (withBank_setPsw hl v c p (s.setMem m) (psw a))

theorem tbDbitadr_withBank (hl : l ≠ 0) (b : BitVec 3) (a : Word) (v : Word) (c p : Byte) (s : State) :
    execTbDbitadr b a (withBank s l v c p) = onNext (fun t => withBank t l v c p) (execTbDbitadr b a s) :=
  IgnoresBank.finish (.of_access (fun s => readByte s.mem (address s.seg a)) (fun x s => s.setZ (!x.getLsbD b.toNat))
    (fun _ => bind_ok_eq_map _ _) (fun _ _ _ _ => rfl) fun _ v c p s => withBank_setZ hl v c p s _) v c p s

/-! ## The stack (43_stack.md R230, R235, R240) -/

theorem push16_ignoresBank (w : Word) : IgnoresBank l (push16 w) :=
  .of_access (fun s => dataWrite s.mem 0 2 (s.sp - 2) w) (fun m s => (s.setSp (s.sp - 2)).setMem m)
    (fun _ => bind_ok_eq_map _ _) (fun _ _ _ _ => rfl) fun _ _ _ _ _ => rfl

theorem pushFar_ignoresBank (seg : Byte) (off : Word) : IgnoresBank l (pushFar seg off) :=
  (push16_ignoresBank _).bind (push16_ignoresBank off)

theorem pushGroup_ignoresBank (k : Nat) (n : RegNum) : IgnoresBank l (pushGroup k n) :=
  .of_access (fun s => dataWriteDown s.mem 0 (s.sp - stackBytes k) k (s.group k n))
    (fun m s => (s.setSp (s.sp - stackBytes k)).setMem m) (fun _ => bind_ok_eq_map _ _)
    (fun v c p s => by rw [withBank_group]; rfl) fun _ _ _ _ _ => rfl

theorem popGroup_ignoresBank (k : Nat) (n : RegNum) : IgnoresBank l (popGroup k n) :=
  .of_access (fun s => dataRead s.mem 0 k s.sp) (fun x s => (s.setSp (s.sp + stackBytes k)).setGroup k n x)
    (fun _ => bind_ok_eq_map _ _) (fun _ _ _ _ => rfl) fun x v c p s => withBank_setGroup v c p (s.setSp _) n k x

theorem popEA_ignoresBank : IgnoresBank l popEA := .of_eq_ok _ popEA_eq fun _ _ _ _ => rfl

theorem popLR_ignoresBank (hl : l ≠ 0) : IgnoresBank l popLR :=
  .of_eq_ok _ popLR_eq fun v c p s => withBank_setLink hl v c p (s.setSp _) _ _

theorem popPSW_ignoresBank (hl : l ≠ 0) : IgnoresBank l popPSW :=
  .of_eq_ok _ popPSW_eq fun v c p s => withBank_setPsw hl v c p (s.setSp _) _

theorem popPC_ignoresBank : IgnoresBank l popPC := .of_eq_ok _ popPC_eq fun _ _ _ _ => rfl

theorem popList_withBank (hl : l ≠ 0) (lr e pc a : Bool) (v : Word) (c p : Byte) (s : State) :
    execPopList lr e pc a (withBank s l v c p) = onNext (fun t => withBank t l v c p) (execPopList lr e pc a s) :=
  IgnoresBank.finish ((popEA_ignoresBank.whenSelected a).bind <| ((popLR_ignoresBank hl).whenSelected lr).bind <|
    ((popPSW_ignoresBank hl).whenSelected e).bind (popPC_ignoresBank.whenSelected pc)) v c p s

/-- The cells a PUSH list names are those of bank 0 and of the active bank, read at its start (43_stack.md R235). -/
theorem pushList_withBank {v : Word} {c p : Byte} {s : State} (hl : l ≠ 0) (hlv : l ≠ s.level) (lr e pc a : Bool) :
    execPushList lr e pc a (withBank s l v c p) = onNext (fun t => withBank t l v c p) (execPushList lr e pc a s) := by
  have hpushes := ((pushFar_ignoresBank (l := l) (s.ecsrOf s.level) (s.elrOf s.level)).whenSelected pc).bind <|
    ((push16_ignoresBank ((s.epswOf s.level).zeroExtend 16)).whenSelected e).bind <|
    ((pushFar_ignoresBank s.lcsr s.lr).whenSelected lr).bind ((push16_ignoresBank s.ea).whenSelected a)
  simp only [execPushList, withBank_level hl, withBank_ecsrOf v c p s hlv, withBank_elrOf v c p s hlv,
    withBank_epswOf v c p s hlv, State.lr, State.lcsr, withBank_ecsrOf v c p s hl, withBank_elrOf v c p s hl]
  exact hpushes.finish v c p s

theorem div_withBank {v : Word} {c p : Byte} {s : State} {n m : RegNum} (hl : l ≠ 0) (hdiv : s.r m ≠ 0) :
    execDivERnRm n m (withBank s l v c p) = onNext (fun t => withBank t l v c p) (execDivERnRm n m s) := by
  have her : (withBank s l v c p).er n = s.er n := withBank_group v c p s 2 n
  have hr : (withBank s l v c p).r m = s.r m := rfl
  simp only [execDivERnRm, her, hr, if_neg hdiv, withBank_psw hl, withBank_setPsw hl, withBank_setR]
  exact congrArg Host.Outcome.next (withBank_setGroup v c p _ n 2 _)

end

/-- A case for each group of instructions with the same effect. -/
theorem exec_withBank {i : Instr} {s : State} {l : BitVec 2} (v : Word) (c p : Byte) (hl : l ≠ 0) (hlv : l ≠ s.level)
    (hraises : (touches s i).raises = false) :
    exec i (withBank s l v c p) = onNext (fun t => withBank t l v c p) (exec i s) := by
  cases i with
  | addRnRm | addRnImm8 | subRnRm | negRn => exact congrArg Host.Outcome.next (withBank_arithR hl ..)
  | addcRnRm | addcRnImm8 | subcRnRm =>
    simp only [exec, execAddcRnRm, execAddcRnImm8, execSubcRnRm, withBank_c hl]
    exact congrArg Host.Outcome.next (withBank_arithR hl ..)
  | addERnERm | addERnImm7 => exact congrArg Host.Outcome.next (withBank_arithER hl ..)
  | cmpRnRm | cmpRnImm8 | cmpERnERm => exact congrArg Host.Outcome.next (withBank_setArith hl ..)
  | cmpcRnRm | cmpcRnImm8 =>
    simp only [exec, execCmpcRnRm, execCmpcRnImm8, withBank_c hl]
    exact congrArg Host.Outcome.next (withBank_setArith hl ..)
  | andRnRm | andRnImm8 | orRnRm | orRnImm8 | xorRnRm | xorRnImm8 | movRnRm | movRnImm8 =>
    exact congrArg Host.Outcome.next (withBank_logicR hl ..)
  | movERnERm | movERnImm7 | extbwER0 | extbwER2 | extbwER4 | extbwER6 | extbwER8 | extbwER10 | extbwER12 | extbwER14 =>
    exact congrArg Host.Outcome.next (withBank_logicER hl ..)
  | sllRnRm | sllRnWidth | sllcRnRm | sllcRnWidth | sraRnRm | sraRnWidth | srlRnRm | srlRnWidth | srlcRnRm
  | srlcRnWidth => exact congrArg Host.Outcome.next (withBank_shiftR hl ..)
  | lERnEA | lERnERm | lERnDisp16ERm | lERnDisp6BP | lERnDisp6FP | lERnDadr
  | lRnEA | lRnERm | lRnDisp16ERm | lRnDisp6BP | lRnDisp6FP | lRnDadr | lXRnEA | lQRnEA =>
    exact load_withBank hl eaIgnoresBank_keepEA v c p s
  | lERnEAInc | lRnEAInc | lXRnEAInc | lQRnEAInc => exact load_withBank hl (eaIgnoresBank_bumpEA _) v c p s
  | stERnEA | stERnERm | stERnDisp16ERm | stERnDisp6BP | stERnDisp6FP | stERnDadr
  | stRnEA | stRnERm | stRnDisp16ERm | stRnDisp6BP | stRnDisp6FP | stRnDadr | stXRnEA | stQRnEA =>
    exact store_withBank eaIgnoresBank_keepEA v c p s
  | stERnEAInc | stRnEAInc | stXRnEAInc | stQRnEAInc => exact store_withBank (eaIgnoresBank_bumpEA _) v c p s
  | incEA | decEA | sbDbitadr | rbDbitadr =>
    simp only [exec, execIncEA, execDecEA, execSbDbitadr, execRbDbitadr, withBank_psw hl]
    exact modifyByte_withBank hl v c p s
  | tbDbitadr => exact tbDbitadr_withBank hl _ _ v c p s
  | pushRn | pushERn | pushXRn | pushQRn => exact (pushGroup_ignoresBank _ _).finish v c p s
  | popRn | popERn | popXRn | popQRn => exact (popGroup_ignoresBank _ _).finish v c p s
  | pushList => exact pushList_withBank hl hlv ..
  | popList => exact popList_withBank hl ..
  | divERnRm => exact div_withBank hl (by simpa [touches] using hraises)
  | daaRn | dasRn =>
    simp only [exec, execDaaRn, execDasRn, withBank_c hl, withBank_hc hl]
    exact congrArg Host.Outcome.next (withBank_bcdResult hl ..)
  | mulERnRm =>
    simp only [exec, execMulERnRm, withBank_setZ hl]
    exact congrArg Host.Outcome.next (withBank_setGroup ..)
  | sbRn | rbRn =>
    simp only [exec, execSbRn, execRbRn, withBank_setZ hl]
    rfl
  | tbRn => exact congrArg Host.Outcome.next (withBank_setZ hl ..)
  | movECSRRm =>
    simp only [exec, execMovECSRRm, withBank_level hl]
    exact congrArg Host.Outcome.next (withBank_setEcsr v c p s hlv _)
  | movELRERm =>
    simp only [exec, execMovELRERm, withBank_level hl]
    exact congrArg Host.Outcome.next (withBank_setElr v c p s hlv _)
  | movEPSWRm =>
    simp only [exec, execMovEPSWRm, withBank_level hl]
    split
    · rfl
    · exact congrArg Host.Outcome.next (withBank_setEpsw v c p s hlv _)
  | movRnEPSW =>
    simp only [exec, execMovRnEPSW, withBank_level hl, withBank_epswOf v c p s hlv]
    split <;> rfl
  | movRnECSR =>
    simp only [exec, execMovRnECSR, withBank_level hl, withBank_ecsrOf v c p s hlv]
    rfl
  | movRnPSW =>
    simp only [exec, execMovRnPSW, withBank_psw hl]
    rfl
  | movERnELR =>
    simp only [exec, execMovERnELR, withBank_level hl, withBank_elrOf v c p s hlv]
    exact congrArg Host.Outcome.next (withBank_setGroup ..)
  | movERnSP => exact congrArg Host.Outcome.next (withBank_setGroup ..)
  | movPSWRm | movPSWImm8 => exact congrArg Host.Outcome.next (withBank_setPsw hl ..)
  | ei | di => exact congrArg Host.Outcome.next (withBank_setMIE hl ..)
  | sc | rc => exact congrArg Host.Outcome.next (withBank_setC hl ..)
  | cplc =>
    simp only [exec, execCplc, withBank_c hl]
    exact congrArg Host.Outcome.next (withBank_setC hl ..)
  | bcond =>
    simp only [exec, execBcond, withBank_psw hl]
    split <;> rfl
  | blCadr | blERn =>
    simp only [exec, execBlCadr, execBlERn, withBank_setLink hl]
    rfl
  | rt =>
    simp only [exec, execRt, State.lr, State.lcsr, withBank_ecsrOf v c p s hl, withBank_elrOf v c p s hl]
    rfl
  | rti => exact congrArg Host.Outcome.next (withBank_returnFromException hl v c p s hlv)
  | movSPERm | addSPImm8 | leaERm | leaDisp16ERm | leaDadr | bCadr | bERn | swi | brk | nop | dsrImm8 | dsrRd | dsrDSR => rfl

end Sys2Proof.Machine

namespace Sys2Proof

open Machine

/-- Settles O52: `State.reset` is sound, and its words are those of a read in segment 0. -/
theorem soundAtReset : Obligations.SoundAtReset :=
  ⟨sound_reset, rfl, rfl, rfl, rfl, dataRead_segment0 _ _, _, dataRead_segment0 _ _, rfl⟩

/-- Settles O12: a group is its bytes, and writing it is the cells of the group written one by one. -/
theorem registerViews : Obligations.RegisterViews := by
  refine ⟨fun s n => ⟨s.er_eq n, s.group_four n, s.group_eight n⟩, fun s k n v hk => ?_, fun s => ⟨rfl, rfl, rfl⟩,
    fun s lr lcsr p => ?_⟩
  · have hk16 : k ≤ 16 := by omega
    exact ⟨s.setGroup_written hk16 n v, s.setGroup_group hk16 n v, s.setGroup_eq k n v⟩
  · exact ⟨by simp [State.lr, State.setElr_elrOf], by simp [State.lcsr, State.setEcsr_ecsrOf], s.setPsw_psw p,
      s.setLink_lr lr lcsr, s.setLink_lcsr lr lcsr, s.setPsw_psw p⟩

/-- Settles O53: each instruction of a step keeps `Steady`, and a platform's answer is host calls, each of which keeps
`Sound`. -/
theorem stepKeepsSound : Obligations.StepKeepsSound := by
  refine ⟨fun s t hs h => step_keeps_sound hs h, fun p s t hs h => ?_⟩
  obtain ⟨u, hu, rfl⟩ := systemStep_next h
  exact p.deliver_keeps_sound (step_keeps_sound hs hu)

/-- Settles O56: every instruction stays within its row of `touches`. -/
theorem pswWriters : Obligations.PswWriters := fun _ _ _ h => (exec_within h).psw

/-- Settles O57: every instruction stays within its row of `touches`. -/
theorem specialRegisterWriters : Obligations.SpecialRegisterWriters := by
  intro i s t h
  have hw := exec_within h
  exact ⟨hw.pc, hw.csr, hw.sp, hw.ea, hw.dsr, hw.cs, fun hbank => ⟨hw.elr hbank, hw.ecsr hbank, hw.epsw hbank⟩, hw.seg,
    hw.signal, hw.stopped⟩

/-- Settles O58: every instruction stays within its row of `touches`; what it stores goes through the segment in force or to
the stack. -/
theorem registerAndMemoryWriters : Obligations.RegisterAndMemoryWriters := by
  intro i s t h
  have hw := exec_within h
  refine ⟨hw.regs, fun seg off k hstored => ?_, fun hnone => ?_⟩
  · rcases Option.or_eq_some_iff.1 hstored with hdata | ⟨-, hstack⟩
    · obtain ⟨y, hy, e⟩ := Option.map_eq_some_iff.1 hdata
      cases e
      exact hw.stored off k hy
    · obtain ⟨y, hy, e⟩ := Option.map_eq_some_iff.1 hstack
      cases e
      exact hw.pushed off k hy
  · obtain ⟨hdata, hstack⟩ := Option.or_eq_none_iff.1 hnone
    exact hw.mem (Option.map_eq_none_iff.1 hdata) (Option.map_eq_none_iff.1 hstack)

/-- Settles O59: every instruction commutes with the replacement of an inactive bank. -/
theorem bankIsolation : Obligations.BankIsolation :=
  fun _ _ _ elr ecsr epsw hzero hlevel hraises => exec_withBank elr ecsr epsw hzero hlevel hraises

end Sys2Proof

/-! # 20_memory.md: the places of an access, the bytes it moves, and the segment it uses -/

namespace Sys2Proof.Machine

/-! ## Addresses (20_memory.md R61, R63) -/

/-- At 2^20 and above the open parameter `MemHigh` decides (00_scope.md R8; log 3). -/
theorem physical_high {a : Address} (h : 2 ^ 20 ≤ a.toNat) : physical a = match Config.memHigh with
    | .refuse => none
    | .mirror => some (a.toNat % 2 ^ 20)
    | .plain => some a.toNat := by
  have hhigh : ¬ a.toNat < 0x100000 := Nat.not_lt.2 h
  rw [physical, if_neg hhigh]
  generalize Config.memHigh = high
  cases high <;> rfl

theorem even_of_getLsbD_zero {v : Word} (h : v.getLsbD 0 = false) : v.toNat % 2 = 0 := by
  have hbit : v.toNat.testBit 0 = false := h
  simpa [Nat.testBit_zero] using hbit

/-- From an even offset the next address lies at the next offset of the same segment: no carry reaches the segment bits
(20_memory.md R63). -/
theorem address_succ_of_even (seg : Byte) {off : Word} (h : off.getLsbD 0 = false) :
    address seg off + 1 = address seg (off + 1) := by
  have heven := even_of_getLsbD_zero h
  have hoff := off.isLt
  have hseg := seg.isLt
  have hnext : (off + 1).toNat = off.toNat + 1 := by simp; omega
  apply BitVec.eq_of_toNat_eq
  rw [BitVec.toNat_add, address_toNat, address_toNat, hnext]
  simp
  omega

theorem address_div_segment (seg : Byte) (off : Word) : (address seg off).toNat / 2 ^ 16 = seg.toNat := by
  have hoff := off.isLt
  rw [address_toNat]
  omega

/-! ## Reads of one and of two bytes (20_memory.md R65) -/

theorem dataRead_one {m : Memory} {seg : Byte} {off : Word} {p : Nat} (hp : physical (address seg off) = some p) :
    dataRead m seg 1 off = .ok (Memory.read m p) := by
  simp only [dataRead, readByte, hp, bind, Except.bind]
  exact congrArg Except.ok ((BitVec.zero_width_append _ _).trans rfl)

theorem dataRead_two {m : Memory} {seg : Byte} {off : Word} {p q : Nat} (hp : physical (address seg off) = some p)
    (hq : physical (address seg (off + 1)) = some q) : dataRead m seg 2 off = .ok (Memory.read m q ++ Memory.read m p) := by
  have hhigh := dataRead_one (m := m) hq
  rw [dataRead, hhigh]
  simp only [readByte, hp, bind, Except.bind]

/-! ## Writes (20_memory.md R67) -/

/-- The bytes stored determine the memory: one access has one outcome, in whatever order it stores them. -/
theorem Stored.unique {m m1 m2 : Memory} {seg : Byte} {off : Word} {k : Nat} {v : BitVec (8 * k)} (hw : Memory.wf m = true)
    (h1 : Stored m seg off k v m1) (h2 : Stored m seg off k v m2) : m1 = m2 := by
  refine Memory.ext_read (h1.wf hw) (h2.wf hw) fun a => ?_
  by_cases ha : holdsByteOf seg off k a
  · obtain ⟨j, hj, hplace⟩ := ha
    rw [h1.inside hw j hj a hplace, h2.inside hw j hj a hplace]
  · rw [h1.outside a ha, h2.outside a ha]

theorem dataWriteDown_eq_dataWrite {m m' : Memory} {seg : Byte} {off : Word} {k : Nat} {v : BitVec (8 * k)}
    (hk : k ≤ 0x10000) (hw : Memory.wf m = true) (h : dataWrite m seg k off v = .ok m') (hseg : segmentAnswers seg) :
    dataWriteDown m seg off k v = .ok m' := by
  obtain ⟨d, hd⟩ := dataWriteDown_ok hseg off k m v
  rw [hd, (dataWriteDown_stored hk hd).unique hw (dataWrite_stored hk h)]

theorem Stored.storedAt {m m' : Memory} {seg : Byte} {off : Word} {k : Nat} {v : BitVec (8 * k)} (hw : Memory.wf m = true)
    (hseg : segmentAnswers seg) (h : Stored m seg off k v m') : StoredAt m seg off k v m' := by
  refine ⟨fun j hj => ?_, h.outside, h.wf hw⟩
  obtain ⟨p, hp⟩ := physical_of_answers hseg (off + BitVec.ofNat 16 j)
  exact ⟨p, hp, h.inside hw j hj p hp⟩

/-- Each byte stored is read back by itself. -/
theorem dataRead_one_stored {m m' : Memory} {seg : Byte} {off : Word} {k : Nat} {v : BitVec (8 * k)} (hw : Memory.wf m = true)
    (hseg : segmentAnswers seg) (h : Stored m seg off k v m') {j : Nat} (hj : j < k) :
    dataRead m' seg 1 (off + BitVec.ofNat 16 j) = .ok (v.extractLsb' (8 * j) 8) := by
  obtain ⟨p, hp⟩ := physical_of_answers hseg (off + BitVec.ofNat 16 j)
  rw [dataRead_one hp, h.inside hw j hj p hp]

/-! ## Fetching a word (20_memory.md R63) -/

/-- PC moves on by 2 inside its segment, and stays even. -/
theorem setPc_next_of_even {s : State} (h : s.pc.getLsbD 0 = false) :
    s.setPc (s.pc + 2) = { s with pc := BitVec.ofNat 16 ((s.pc.toNat + 2) % 2 ^ 16) } := by
  have heven : (s.pc + 2).getLsbD 0 = false := by
    have hpc := even_of_getLsbD_zero h
    simp [BitVec.getLsbD, Nat.testBit_zero]
    omega
  have hnext : s.pc + 2 = BitVec.ofNat 16 ((s.pc.toNat + 2) % 2 ^ 16) := BitVec.eq_of_toNat_eq (by simp)
  rw [State.setPc, pc_mask_of_even heven, hnext]

theorem fetch16_eq {s : State} {p q : Nat} (hp : physical (address s.csr s.pc) = some p)
    (hq : physical (address s.csr (s.pc + 1)) = some q) :
    fetch16 s = .ok (Memory.read s.mem q ++ Memory.read s.mem p, s.setPc (s.pc + 2)) := by
  simp only [fetch16, dataRead_two hp hq, bind, Except.bind]

/-! ## Operations that commute with a change of the state

What an operation neither reads nor writes may be replaced before it or after it. -/

/-- Changing the state by `e` before the operation gives the same outcome as changing it after. -/
def CommutesWith (e : State → State) (f : State → Except Refusal State) : Prop := ∀ s, f (e s) = (f s).map e

section
variable {e : State → State} {f f' : State → Except Refusal State}

theorem CommutesWith.bind (hf : CommutesWith e f) (hf' : CommutesWith e f') : CommutesWith e fun s => f s >>= f' := by
  intro s
  simp only [hf s]
  cases f s with
  | error r => rfl
  | ok t => exact hf' t

theorem CommutesWith.whenSelected (hf : CommutesWith e f) (b : Bool) : CommutesWith e (whenSelected b f) := by
  cases b with
  | true => exact hf
  | false => exact fun _ => rfl

/-- An instruction whose effect is one such operation. -/
theorem CommutesWith.finish (hf : CommutesWith e f) (s : State) : finish (f (e s)) = onNext e (finish (f s)) := by
  rw [hf s]
  cases f s <;> rfl

end

/-! ## The segment in force and the operations that do not use it (20_memory.md R64)

The stack lies in segment 0 (43_stack.md R230), and the register operations name no segment. -/

section
variable (g : Byte)

theorem push16_setSeg (v : Word) : CommutesWith (fun t => t.setSeg g) (push16 v) := by
  intro s
  simp only [push16, State.setSeg_mem, State.setSeg_sp]
  cases dataWrite s.mem 0 2 (s.sp - 2) v <;> rfl

theorem pushFar_setSeg (seg : Byte) (off : Word) : CommutesWith (fun t => t.setSeg g) (pushFar seg off) :=
  (push16_setSeg g _).bind (push16_setSeg g off)

theorem pushGroup_setSeg (k : Nat) (n : RegNum) : CommutesWith (fun t => t.setSeg g) (pushGroup k n) := by
  intro s
  simp only [pushGroup, State.setSeg_mem, State.setSeg_sp, State.setSeg_group]
  cases dataWriteDown s.mem 0 (s.sp - stackBytes k) k (s.group k n) <;> rfl

theorem setGroup_setSeg : ∀ (k : Nat) (s : State) (n : RegNum) (v : BitVec (8 * k)),
    (s.setSeg g).setGroup k n v = (s.setGroup k n v).setSeg g
  | 0, _, _, _ => rfl
  | k + 1, s, n, v => setGroup_setSeg k (s.setR n (v.extractLsb' 0 8)) (n + 1) (v.extractLsb' 8 (8 * k))

theorem popGroup_setSeg (k : Nat) (n : RegNum) : CommutesWith (fun t => t.setSeg g) (popGroup k n) := by
  intro s
  simp only [popGroup, State.setSeg_mem, State.setSeg_sp]
  cases dataRead s.mem 0 k s.sp with
  | error r => rfl
  | ok v => exact congrArg Except.ok (setGroup_setSeg g k (s.setSp (s.sp + stackBytes k)) n v)

theorem popEA_setSeg : CommutesWith (fun t => t.setSeg g) popEA := fun s => by rw [popEA_eq, popEA_eq]; rfl

theorem popLR_setSeg : CommutesWith (fun t => t.setSeg g) popLR := fun s => by rw [popLR_eq, popLR_eq]; rfl

theorem popPSW_setSeg : CommutesWith (fun t => t.setSeg g) popPSW := fun s => by rw [popPSW_eq, popPSW_eq]; rfl

theorem popPC_setSeg : CommutesWith (fun t => t.setSeg g) popPC := fun s => by rw [popPC_eq, popPC_eq]; rfl

/-- The words a PUSH list pushes are read from the banks and EA at its start (43_stack.md R235). -/
theorem pushList_setSeg (l e p a : Bool) (s : State) :
    execPushList l e p a (s.setSeg g) = onNext (fun t => t.setSeg g) (execPushList l e p a s) :=
  (((pushFar_setSeg g (s.ecsrOf s.level) (s.elrOf s.level)).whenSelected p).bind <|
    ((push16_setSeg g ((s.epswOf s.level).zeroExtend 16)).whenSelected e).bind <|
    ((pushFar_setSeg g s.lcsr s.lr).whenSelected l).bind ((push16_setSeg g s.ea).whenSelected a)).finish s

theorem popList_setSeg (l e p a : Bool) (s : State) :
    execPopList l e p a (s.setSeg g) = onNext (fun t => t.setSeg g) (execPopList l e p a s) :=
  (((popEA_setSeg g).whenSelected a).bind <| ((popLR_setSeg g).whenSelected l).bind <|
    ((popPSW_setSeg g).whenSelected e).bind ((popPC_setSeg g).whenSelected p)).finish s

theorem shiftR_setSeg (n : RegNum) (w : BitVec 3) (x : Byte × Bool) (s : State) :
    shiftR n w x (s.setSeg g) = (shiftR n w x s).setSeg g := by
  unfold shiftR
  split <;> rfl

theorem takeException_setSeg (l : BitVec 2) (index : BitVec 7) (s : State) :
    takeException l index (s.setSeg g) = (takeException l index s).setSeg g := by
  unfold takeException
  simp only
  split <;> rfl

theorem div_setSeg (n m : RegNum) (s : State) :
    execDivERnRm n m (s.setSeg g) = onNext (fun t => t.setSeg g) (execDivERnRm n m s) := by
  simp only [execDivERnRm, State.setSeg_r, State.setSeg_er]
  split
  · exact congrArg Host.Outcome.next (takeException_setSeg g _ _ s)
  · rfl

end

/-- Only data accesses and prefixes use the segment in force. A case for each group of instructions: the accesses and the
prefixes, which the hypotheses exclude, the stack, those that decide before they write, and those that update registers
at once. -/
theorem exec_setSeg {i : Instr} {s : State} (g : Byte) (hdata : dataOffset s i = none) (hprefix : (touches s i).seg = false) :
    exec i (s.setSeg g) = onNext (fun t => t.setSeg g) (exec i s) := by
  cases i with
  | lERnEA | lERnEAInc | lERnERm | lERnDisp16ERm | lERnDisp6BP | lERnDisp6FP | lERnDadr
  | lRnEA | lRnEAInc | lRnERm | lRnDisp16ERm | lRnDisp6BP | lRnDisp6FP | lRnDadr
  | lXRnEA | lXRnEAInc | lQRnEA | lQRnEAInc
  | stERnEA | stERnEAInc | stERnERm | stERnDisp16ERm | stERnDisp6BP | stERnDisp6FP | stERnDadr
  | stRnEA | stRnEAInc | stRnERm | stRnDisp16ERm | stRnDisp6BP | stRnDisp6FP | stRnDadr
  | stXRnEA | stXRnEAInc | stQRnEA | stQRnEAInc
  | incEA | decEA | sbDbitadr | rbDbitadr | tbDbitadr => exact absurd hdata (Option.some_ne_none _)
  | dsrImm8 | dsrRd | dsrDSR => exact Bool.noConfusion hprefix
  | pushRn | pushERn | pushXRn | pushQRn => exact (pushGroup_setSeg g _ _).finish s
  | popRn | popERn | popXRn | popQRn => exact (popGroup_setSeg g _ _).finish s
  | pushList => exact pushList_setSeg g ..
  | popList => exact popList_setSeg g ..
  | sllRnRm | sllRnWidth | sllcRnRm | sllcRnWidth | sraRnRm | sraRnWidth | srlRnRm | srlRnWidth | srlcRnRm
  | srlcRnWidth => exact congrArg Host.Outcome.next (shiftR_setSeg g ..)
  | divERnRm => exact div_setSeg g ..
  | bcond | movEPSWRm | movRnEPSW =>
    simp only [exec, execBcond, execMovEPSWRm, execMovRnEPSW, onNext, apply_ite (fun t : State => t.setSeg g)]
    rfl
  | _ => rfl

end Sys2Proof.Machine

namespace Sys2Proof

open Machine

/-- Settles O60: every instruction without a data access commutes with the replacement of the segment. -/
theorem segmentOnlyForData : Obligations.SegmentOnlyForData := fun _ _ g hdata hprefix => exec_setSeg g hdata hprefix

/-- Settles O8: a write stores its bytes at the places of the access, from where each of them is read back, and these bytes
determine the memory whatever the order of the writes. -/
theorem dataAccessBytes : Obligations.DataAccessBytes := by
  intro m seg off k v hk hseg hwf
  have hk16 : k ≤ 0x10000 := by omega
  obtain ⟨x, hread⟩ := dataRead_ok m hseg k off
  obtain ⟨m', hwrite⟩ := dataWrite_ok hseg k m off v
  have hstored := dataWrite_stored hk16 hwrite
  exact ⟨⟨x, hread, dataRead_byte hread⟩, m', hwrite, hstored.storedAt hwf hseg, dataRead_stored hseg hwf hstored,
    fun j hj => dataRead_one_stored hwf hseg hstored hj, dataWriteDown_eq_dataWrite hk16 hwf hwrite hseg⟩

/-- Settles O10: PC is even, so the second byte is at the next offset of the same segment, and the mask of PC drops
nothing. -/
theorem fetchReadsWord : Obligations.FetchReadsWord := by
  intro s heven hcsr
  obtain ⟨p, hp⟩ := physical_of_answers hcsr s.pc
  obtain ⟨q, hq⟩ := physical_of_answers hcsr (s.pc + 1)
  have hsucc := address_succ_of_even s.csr heven
  refine ⟨p, q, hp, hsucc ▸ hq, hsucc ▸ address_div_segment s.csr (s.pc + 1), ?_⟩
  rw [fetch16_eq hp hq, setPc_next_of_even heven]

/-- Settles O9: the segment is the upper byte of the address; `MemHigh` matters from 2^20 up. -/
theorem addressPlaces : Obligations.AddressPlaces :=
  ⟨address_toNat, fun _ => ⟨physical_low, physical_high⟩⟩

end Sys2Proof

/-! # 30_encoding.md: the encoder and the decoder are inverse, the words of no row, and the step that runs what it decodes -/

namespace Sys2Proof

/-! ## Case analysis over the values of a nibble -/

/-- A statement about every nibble, from its sixteen values. -/
theorem nibbleCases {motive : BitVec 4 → Prop} (x0 : motive 0x0) (x1 : motive 0x1) (x2 : motive 0x2) (x3 : motive 0x3)
    (x4 : motive 0x4) (x5 : motive 0x5) (x6 : motive 0x6) (x7 : motive 0x7) (x8 : motive 0x8) (x9 : motive 0x9)
    (xA : motive 0xA) (xB : motive 0xB) (xC : motive 0xC) (xD : motive 0xD) (xE : motive 0xE) (xF : motive 0xF)
    (a : BitVec 4) : motive a := by
  have hvalues : a = 0x0 ∨ a = 0x1 ∨ a = 0x2 ∨ a = 0x3 ∨ a = 0x4 ∨ a = 0x5 ∨ a = 0x6 ∨ a = 0x7 ∨ a = 0x8 ∨ a = 0x9 ∨
      a = 0xA ∨ a = 0xB ∨ a = 0xC ∨ a = 0xD ∨ a = 0xE ∨ a = 0xF := by
    revert a; decide
  rcases hvalues with rfl | rfl | rfl | rfl | rfl | rfl | rfl | rfl | rfl | rfl | rfl | rfl | rfl | rfl | rfl | rfl <;>
    assumption

/-- A statement about every number an ER operand can have, from its eight values (10_state.md R22). -/
theorem pairCases {motive : (a : BitVec 4) → isER a = true → Prop} (x0 : motive 0x0 rfl) (x2 : motive 0x2 rfl)
    (x4 : motive 0x4 rfl) (x6 : motive 0x6 rfl) (x8 : motive 0x8 rfl) (xA : motive 0xA rfl) (xC : motive 0xC rfl)
    (xE : motive 0xE rfl) (a : BitVec 4) (h : isER a = true) : motive a h := by
  cases a using nibbleCases with
  | x0 | x2 | x4 | x6 | x8 | xA | xC | xE => assumption
  | _ => exact absurd h (by decide)

/-! ## Fields joined again from their cuts (30_encoding.md R97) -/

theorem zero_append_low3Of {m : BitVec 4} (h : m.msb = false) : 0#1 ++ low3Of m = m := by revert m; decide
theorem one_append_low3Of {m : BitVec 4} (h : m.msb = true) : 1#1 ++ low3Of m = m := by revert m; decide

@[simp] theorem imm7Of_low (m f : BitVec 4) : (imm7Of m f).extractLsb' 0 4 = f := by revert m f; decide
theorem zero_append_imm7Of {m : BitVec 4} (h : m.msb = false) (f : BitVec 4) : 0#1 ++ (imm7Of m f).extractLsb' 4 3 = m := by
  revert m f; decide
theorem one_append_imm7Of {m : BitVec 4} (h : m.msb = true) (f : BitVec 4) : 1#1 ++ (imm7Of m f).extractLsb' 4 3 = m := by
  revert m f; decide

@[simp] theorem low6Of_low (m f : BitVec 4) : (low6Of m f).extractLsb' 0 4 = f := by revert m f; decide
theorem append_low6Of {m : BitVec 4} {t : BitVec 2} (h : top2Of m = t) (f : BitVec 4) :
    t ++ (low6Of m f).extractLsb' 4 2 = m := by
  revert m f t; decide
theorem top2Of_values (m : BitVec 4) : top2Of m = 0b00#2 ∨ top2Of m = 0b01#2 ∨ top2Of m = 0b10#2 ∨ top2Of m = 0b11#2 := by
  revert m; decide

/-! ## What the decoder reads encodes back to the words read (30_encoding.md R91, R95, R120) -/

/-- What a first word `w` says is true of the encoder: its whole instruction is a legal one with the word `w`, a long one has
the words `w` and the long immediate, whatever this is. -/
def FirstWord.Encodes (w : Word) : FirstWord → Prop
  | .illegal => True
  | .whole i => i.wellFormed = true ∧ encode i = [w]
  | .long f => ∀ x, (f x).wellFormed = true ∧ encode (f x) = [w, x]

theorem FirstWord.Encodes.onlyIf {w : Word} {b : Bool} {r : FirstWord} (h : b = true → r.Encodes w) :
    (FirstWord.onlyIf b r).Encodes w := by
  cases b with
  | false => trivial
  | true => exact h rfl

theorem FirstWord.Encodes.onlyIf_and {w : Word} {b c : Bool} {r : FirstWord} (h : b = true → c = true → r.Encodes w) :
    (FirstWord.onlyIf (b && c) r).Encodes w :=
  .onlyIf fun hbc => h (Bool.and_eq_true_iff.1 hbc).1 (Bool.and_eq_true_iff.1 hbc).2

/-- A row that fixes a field. -/
theorem FirstWord.Encodes.onlyIf_eq {w : Word} {v : Nat} {a k : BitVec v} {r : FirstWord} (h : a = k → r.Encodes w) :
    (FirstWord.onlyIf (a == k) r).Encodes w :=
  .onlyIf fun hak => h (eq_of_beq hak)

theorem FirstWord.Encodes.ite {w : Word} {b : Bool} {r r' : FirstWord} (h : b = true → r.Encodes w)
    (h' : b = false → r'.Encodes w) : (if b then r else r').Encodes w := by
  cases b with
  | false => exact h' rfl
  | true => exact h rfl

theorem decode8_encodes (n m f : BitVec 4) : (decode8 n m f).Encodes (mkWord 0x8 n m f) := by
  cases f using nibbleCases with
  | xF =>
    cases m using nibbleCases with
    | x1 | x3 | x5 => exact ⟨rfl, rfl⟩
    | x0 | x2 | x4 | x6 | x8 | xA | xC | xE => exact .onlyIf_eq fun h => by subst h; exact ⟨rfl, rfl⟩
    | _ => trivial
  | _ => exact ⟨rfl, rfl⟩

theorem decode9_encodes (n m f : BitVec 4) : (decode9 n m f).Encodes (mkWord 0x9 n m f) := by
  cases f using nibbleCases with
  | x0 | x1 =>
    cases m using nibbleCases with
    | x1 => exact fun _ => ⟨rfl, rfl⟩
    | x3 | x5 => exact ⟨rfl, rfl⟩
    | _ => exact .onlyIf fun h => ⟨h, rfl⟩
  | x2 | x3 =>
    cases m using nibbleCases with
    | x1 => exact .onlyIf fun h _ => ⟨h, rfl⟩
    | _ => exact .onlyIf fun h => ⟨h, rfl⟩
  | x4 | x5 | x6 | x7 =>
    cases m using nibbleCases with
    | x3 | x5 => exact .onlyIf fun h => ⟨h, rfl⟩
    | _ => trivial
  | x8 | x9 => exact .onlyIf fun h _ => ⟨h, rfl⟩
  | xA | xB | xC | xD | xE =>
    refine .onlyIf fun h => ⟨rfl, ?_⟩
    rw [encode, zero_append_low3Of (by simpa using h)]
  | xF => exact .onlyIf_eq fun h => by subst h; exact ⟨rfl, rfl⟩

theorem decodeA_encodes (n m f : BitVec 4) : (decodeA n m f).Encodes (mkWord 0xA n m f) := by
  cases f using nibbleCases with
  | x0 | x1 | x2 =>
    exact .ite (fun hm => .onlyIf_eq fun hn _ => ⟨rfl, by rw [encode, one_append_low3Of hm, hn]⟩)
      (fun hm => ⟨rfl, by rw [encode, zero_append_low3Of hm]⟩)
  | x3 | x4 | x7 | xB | xC | xF => exact .onlyIf_eq fun h => by subst h; exact ⟨rfl, rfl⟩
  | x5 | xD => exact .onlyIf_and fun hm hn => by rw [eq_of_beq hm]; exact ⟨hn, rfl⟩
  | x8 | x9 => exact .onlyIf fun h _ => ⟨h, rfl⟩
  | xA =>
    exact .ite (fun hm => .onlyIf fun hn => by rw [eq_of_beq hm]; exact ⟨hn, rfl⟩)
      (fun _ => .onlyIf_and fun hn hm => by rw [eq_of_beq hn]; exact ⟨hm, rfl⟩)
  | x6 | xE => trivial

theorem decodeB_encodes (n m f : BitVec 4) : (decodeB n m f).Encodes (mkWord 0xB n m f) := by
  refine .onlyIf fun hn => ?_
  rcases top2Of_values m with hm | hm | hm | hm <;> simp only [hm] <;> refine ⟨hn, ?_⟩ <;>
    rw [encode, append_low6Of hm, low6Of_low]

theorem decodeD_encodes (n m f : BitVec 4) : (decodeD n m f).Encodes (mkWord 0xD n m f) := by
  rcases top2Of_values m with hm | hm | hm | hm <;> simp only [decodeD, hm] <;> refine ⟨rfl, ?_⟩ <;>
    rw [encode, append_low6Of hm, low6Of_low]

theorem decodeE_encodes (n m f : BitVec 4) : (decodeE n m f).Encodes (mkWord 0xE n m f) := by
  refine .ite (fun hn => .ite (fun hm => ⟨hn, ?_⟩) (fun hm => ⟨hn, ?_⟩)) (fun _ => ?_)
  · rw [encode, one_append_imm7Of hm, imm7Of_low]
  · rw [encode, zero_append_imm7Of hm, imm7Of_low]
  cases n using nibbleCases with
  | x1 | x3 | x9 => exact ⟨rfl, by rw [encode, hiNibble_append, loNibble_append]⟩
  | x5 => exact .onlyIf_eq fun hm => ⟨rfl, by rw [encode, append_low6Of (t := 0b00#2) hm, low6Of_low]⟩
  | xB | xD =>
    exact .ite (fun hm => .onlyIf_eq fun hf => by rw [eq_of_beq hm, hf]; exact ⟨rfl, rfl⟩)
      (fun _ => .onlyIf_and fun hm hf => by rw [eq_of_beq hm, eq_of_beq hf]; exact ⟨rfl, rfl⟩)
  | _ => trivial

theorem decodeF_encodes (n m f : BitVec 4) : (decodeF n m f).Encodes (mkWord 0xF n m f) := by
  cases f using nibbleCases with
  | x0 | x1 => exact .onlyIf_eq fun h x => by subst h; exact ⟨rfl, rfl⟩
  | x2 | x3 | xA => exact .onlyIf_and fun hn hm => by rw [eq_of_beq hn]; exact ⟨hm, rfl⟩
  | x4 | x5 | x6 | x7 | x9 => exact .onlyIf fun h => ⟨h, rfl⟩
  | xB => exact .onlyIf_and fun hn hm x => by rw [eq_of_beq hn]; exact ⟨hm, rfl⟩
  | xC => exact .onlyIf_and fun hn hm x => by rw [eq_of_beq hn, eq_of_beq hm]; exact ⟨rfl, rfl⟩
  | xE =>
    cases m using nibbleCases with
    | x0 | x4 => exact ⟨rfl, rfl⟩
    | x1 | x2 | x3 | x5 | x6 | x7 => exact .onlyIf fun h => ⟨h, rfl⟩
    | x8 | xC => exact ⟨rfl, by rw [encode, listField_of_bits]⟩
    | _ => trivial
  | xF =>
    refine .ite (fun hn => ?_) fun _ => .onlyIf_and fun hn hm => by rw [eq_of_beq hn, eq_of_beq hm]; exact ⟨rfl, rfl⟩
    rw [eq_of_beq hn]
    cases m using nibbleCases with
    | x0 | x1 | x2 | x3 | x8 | x9 | xC => exact ⟨rfl, rfl⟩
    | _ => trivial
  | x8 | xD => trivial

/-! ## The groups of the top nibbles (30_encoding.md R99 to R107) -/

section
variable (n m f : BitVec 4)

theorem decodeFirst_top8 : decodeFirst (mkWord 0x8 n m f) = decode8 n m f := by simp [decodeFirst]
theorem decodeFirst_top9 : decodeFirst (mkWord 0x9 n m f) = decode9 n m f := by simp [decodeFirst]
theorem decodeFirst_topA : decodeFirst (mkWord 0xA n m f) = decodeA n m f := by simp [decodeFirst]
theorem decodeFirst_topB : decodeFirst (mkWord 0xB n m f) = decodeB n m f := by simp [decodeFirst]
theorem decodeFirst_topD : decodeFirst (mkWord 0xD n m f) = decodeD n m f := by simp [decodeFirst]
theorem decodeFirst_topE : decodeFirst (mkWord 0xE n m f) = decodeE n m f := by simp [decodeFirst]
theorem decodeFirst_topF : decodeFirst (mkWord 0xF n m f) = decodeF n m f := by simp [decodeFirst]

end

/-- The tables of all top nibbles: no bit of a first word is ignored. -/
theorem decodeFirst_mkWord_encodes (t n m f : BitVec 4) : (decodeFirst (mkWord t n m f)).Encodes (mkWord t n m f) := by
  cases t using nibbleCases with
  | x8 => rw [decodeFirst_top8]; exact decode8_encodes n m f
  | x9 => rw [decodeFirst_top9]; exact decode9_encodes n m f
  | xA => rw [decodeFirst_topA]; exact decodeA_encodes n m f
  | xB => rw [decodeFirst_topB]; exact decodeB_encodes n m f
  | xC => simp [decodeFirst, FirstWord.Encodes, Instr.wellFormed, encode]
  | xD => rw [decodeFirst_topD]; exact decodeD_encodes n m f
  | xE => rw [decodeFirst_topE]; exact decodeE_encodes n m f
  | xF => rw [decodeFirst_topF]; exact decodeF_encodes n m f
  | _ => simp [decodeFirst, FirstWord.Encodes, Instr.wellFormed, encode]

theorem decodeFirst_encodes (w : Word) : (decodeFirst w).Encodes w := by
  have hnibs := decodeFirst_mkWord_encodes (nib3 w) (nib2 w) (nib1 w) (nib0 w)
  rwa [mkWord_nibs] at hnibs

/-! ## The decoder on bytes (30_encoding.md R92, R93) -/

/-- The words the decoder reads as the instruction `i`: one word that is the whole instruction, or one with hint TI and the
long immediate. -/
inductive ReadsAs : List Word → Instr → Prop
  | whole {w : Word} {i : Instr} : decodeFirst w = .whole i → ReadsAs [w] i
  | long {w : Word} {f : Word → Instr} (x : Word) : decodeFirst w = .long f → ReadsAs [w, x] (f x)

theorem ReadsAs.decode {ws : List Word} {i : Instr} (h : ReadsAs ws i) (rest : List Byte) :
    decode (bytesOfWords ws ++ rest) = .ok (i, rest) := by
  cases h with
  | whole hw => exact decode_whole hw rest
  | long x hw => exact decode_long hw rest

theorem ReadsAs.encodes {ws : List Word} {i : Instr} (h : ReadsAs ws i) : i.wellFormed = true ∧ encode i = ws := by
  cases h with
  | @whole w _ hw =>
    have henc := decodeFirst_encodes w
    rw [hw] at henc
    exact henc
  | @long w f x hw =>
    have henc := decodeFirst_encodes w
    rw [hw] at henc
    exact henc x

@[simp] theorem wordOfBytes_low (b0 b1 : Byte) : (wordOfBytes b0 b1).extractLsb' 0 8 = b0 :=
  BitVec.extractLsb'_append_eq_right

@[simp] theorem wordOfBytes_high (b0 b1 : Byte) : (wordOfBytes b0 b1).extractLsb' 8 8 = b1 :=
  BitVec.extractLsb'_append_eq_left

/-- Every answer of the decoder is the reading of the bytes of one or two words. -/
theorem readsAs_of_decode {bs rest : List Byte} {i : Instr} (h : decode bs = .ok (i, rest)) :
    ∃ ws, ReadsAs ws i ∧ bytesOfWords ws ++ rest = bs := by
  unfold decode at h
  split at h
  · rename_i b0 b1 tail
    split at h
    · cases h
    · rename_i i' hw
      cases h
      exact ⟨_, .whole hw, by simp [bytesOfWords]⟩
    · rename_i f hw
      split at h
      · rename_i b2 b3 rest'
        cases h
        exact ⟨_, .long (wordOfBytes b2 b3) hw, by simp [bytesOfWords]⟩
      · cases h
  · cases h

/-! ## What the encoder writes is read back (30_encoding.md R91, R98) -/

theorem FirstWord.onlyIf_eq {b : Bool} (h : b = true) (r : FirstWord) : FirstWord.onlyIf b r = r := by
  rw [h, FirstWord.onlyIf_true]

/-! ### An even register field is no code of another addressing mode (30_encoding.md R101, R102) -/

section
variable {m : BitVec 4} (hm : isER m = true) (n : BitVec 4)
include hm

theorem decode9_lRnERm : decode9 n m 0x0 = .whole (.lRnERm n m) := by
  induction m, hm using pairCases <;> rfl

theorem decode9_stRnERm : decode9 n m 0x1 = .whole (.stRnERm n m) := by
  induction m, hm using pairCases <;> rfl

theorem decode9_lERnERm : decode9 n m 0x2 = .onlyIf (isER n && isER m) (.whole (.lERnERm n m)) := by
  induction m, hm using pairCases <;> rfl

theorem decode9_stERnERm : decode9 n m 0x3 = .onlyIf (isER n && isER m) (.whole (.stERnERm n m)) := by
  induction m, hm using pairCases <;> rfl

theorem decodeA_movSPERm : decodeA 0x1 m 0xA = .whole (.movSPERm m) := by
  induction m, hm using pairCases <;> rfl

end

theorem readsAs_encode {i : Instr} (h : i.wellFormed = true) : ReadsAs (encode i) i := by
  cases i with
  | addRnRm | addcRnRm | andRnRm | cmpRnRm | cmpcRnRm | movRnRm | orRnRm | xorRnRm | subRnRm | subcRnRm
  | sllRnRm | sllcRnRm | sraRnRm | srlRnRm | srlcRnRm | negRn | daaRn | dasRn =>
    exact .whole (decodeFirst_top8 _ _ _)
  | addRnImm8 | addcRnImm8 | andRnImm8 | cmpRnImm8 | cmpcRnImm8 | movRnImm8 | orRnImm8 | xorRnImm8 | bcond =>
    exact .whole (by simp [decodeFirst])
  | addERnERm | movERnERm | cmpERnERm | mulERnRm | divERnRm | popERn | popXRn | popQRn | pushERn | pushXRn | pushQRn
  | leaERm | bERn | blERn =>
    exact .whole ((decodeFirst_topF _ _ _).trans (FirstWord.onlyIf_eq h _))
  | lXRnEA | lXRnEAInc | lQRnEA | lQRnEAInc | stXRnEA | stXRnEAInc | stQRnEA | stQRnEAInc | lERnEA | lERnEAInc
  | stERnEA | stERnEAInc =>
    exact .whole ((decodeFirst_top9 _ _ _).trans (FirstWord.onlyIf_eq h _))
  | lRnEA | lRnEAInc | stRnEA | stRnEAInc | dsrRd =>
    exact .whole (decodeFirst_top9 _ _ _)
  | lRnDadr | stRnDadr => exact .long _ (decodeFirst_top9 _ _ _)
  | lERnDadr | stERnDadr | lRnDisp16ERm | stRnDisp16ERm =>
    exact .long _ ((decodeFirst_top9 _ _ _).trans (FirstWord.onlyIf_eq h _))
  | lERnDisp16ERm | stERnDisp16ERm => exact .long _ ((decodeFirst_topA _ _ _).trans (FirstWord.onlyIf_eq h _))
  | sllRnWidth | sllcRnWidth | sraRnWidth | srlRnWidth | srlcRnWidth =>
    exact .whole (by rw [decodeFirst_top9]; simp [decode9, FirstWord.onlyIf])
  | lRnERm n => exact .whole ((decodeFirst_top9 _ _ _).trans (decode9_lRnERm h n))
  | stRnERm n => exact .whole ((decodeFirst_top9 _ _ _).trans (decode9_stRnERm h n))
  | lERnERm n =>
    obtain ⟨-, hm⟩ := Bool.and_eq_true_iff.1 h
    exact .whole ((decodeFirst_top9 _ _ _).trans ((decode9_lERnERm hm n).trans (FirstWord.onlyIf_eq h _)))
  | stERnERm n =>
    obtain ⟨-, hm⟩ := Bool.and_eq_true_iff.1 h
    exact .whole ((decodeFirst_top9 _ _ _).trans ((decode9_stERnERm hm n).trans (FirstWord.onlyIf_eq h _)))
  | lERnDisp6BP | lERnDisp6FP | stERnDisp6BP | stERnDisp6FP =>
    exact .whole (by rw [decodeFirst_topB, decodeB, top2Of_cut, low6Of_cut]; exact FirstWord.onlyIf_eq h _)
  | lRnDisp6BP | lRnDisp6FP | stRnDisp6BP | stRnDisp6FP =>
    exact .whole (by rw [decodeFirst_topD, decodeD, top2Of_cut, low6Of_cut]; rfl)
  | addERnImm7 n | movERnImm7 n =>
    have hn : isER n = true := h
    exact .whole (by rw [decodeFirst_topE]; simp [decodeE, hn])
  | movSPERm => exact .whole ((decodeFirst_topA _ _ _).trans (decodeA_movSPERm h))
  | movERnSP | movERnELR | movELRERm =>
    exact .whole ((decodeFirst_topA _ _ _).trans (FirstWord.onlyIf_eq h _))
  | movRnPSW | movRnEPSW | movRnECSR | movPSWRm | movEPSWRm | movECSRRm =>
    exact .whole (decodeFirst_topA _ _ _)
  | sbRn | rbRn | tbRn => exact .whole (by rw [decodeFirst_topA]; simp [decodeA])
  | sbDbitadr | rbDbitadr | tbDbitadr => exact .long _ (by rw [decodeFirst_topA]; simp [decodeA, FirstWord.onlyIf])
  | movPSWImm8 | addSPImm8 | dsrImm8 => exact .whole (by rw [decodeFirst_topE]; simp [decodeE, isER])
  | swi => exact .whole (by rw [decodeFirst_topE]; simp [decodeE, isER, FirstWord.onlyIf])
  | popRn | pushRn => exact .whole (decodeFirst_topF _ _ _)
  | popList l e p a | pushList l e p a =>
    exact .whole (by rw [decodeFirst_topF]; simpa [decodeF] using listField_bits l e p a)
  | bCadr | blCadr | leaDadr => exact .long _ (decodeFirst_topF _ _ _)
  | leaDisp16ERm => exact .long _ ((decodeFirst_topF _ _ _).trans (FirstWord.onlyIf_eq h _))
  | ei | di | sc | rc | cplc | rt | rti | brk | extbwER0 | extbwER2 | extbwER4 | extbwER6 | extbwER8 | extbwER10
  | extbwER12 | extbwER14 | incEA | decEA | nop | dsrDSR => exact .whole rfl

/-- Settles O2: the words the decoder read are a legal instruction's encoding, and their bytes are those consumed. -/
theorem encodeDecode : Obligations.EncodeDecode := by
  intro bs rest i h
  obtain ⟨ws, hreads, hbytes⟩ := readsAs_of_decode h
  obtain ⟨hwf, hencode⟩ := hreads.encodes
  exact ⟨hwf, by rw [encodeBytes, hencode, hbytes]⟩

/-- Settles O1: the words of a legal instruction are read as it, whatever bytes follow them. -/
theorem decodeEncode : Obligations.DecodeEncode := fun _ rest h => (readsAs_encode h).decode rest

/-! ## The words of no row (30_encoding.md R122) -/

theorem isER_eq (n : RegNum) : isER n = decide (n.toNat % 2 = 0) := by revert n; decide
theorem isXR_eq (n : RegNum) : isXR n = decide (n.toNat % 4 = 0) := by revert n; decide
theorem isQR_eq (n : RegNum) : isQR n = decide (n.toNat % 8 = 0) := by revert n; decide
theorem nibble_msb_eq (m : BitVec 4) : m.msb = decide (8 ≤ m.toNat) := by revert m; decide
theorem nibble_beq_eq (a b : BitVec 4) : (a == b) = decide (a.toNat = b.toNat) := by revert a b; decide
theorem top2Of_eq_zero_iff (m : BitVec 4) : top2Of m = 0#2 ↔ m.toNat < 4 := by revert m; decide

@[simp] theorem whole_ne_illegal (i : Instr) : FirstWord.whole i ≠ .illegal := FirstWord.noConfusion
@[simp] theorem long_ne_illegal (f : Word → Instr) : FirstWord.long f ≠ .illegal := FirstWord.noConfusion

@[simp] theorem onlyIf_eq_illegal_iff {b : Bool} {r : FirstWord} : FirstWord.onlyIf b r = .illegal ↔ b = false ∨ r = .illegal := by
  cases b <;> simp [FirstWord.onlyIf]

theorem decode8_illegal (n m f : BitVec 4) : decode8 n m f = .illegal ↔
    ¬ (f.toNat ≠ 0xF ∨ m.toNat = 1 ∨ m.toNat = 3 ∨ m.toNat = 5 ∨ (m.toNat % 2 = 0 ∧ n.toNat = m.toNat + 1)) := by
  cases f using nibbleCases with
  | xF => cases m using nibbleCases <;> simp [decode8, nibble_beq_eq]
  | _ => simp [decode8]

theorem decode9_illegal (n m f : BitVec 4) : decode9 n m f = .illegal ↔
    ¬ ((f.toNat ≤ 1 ∧ (m.toNat = 1 ∨ m.toNat = 3 ∨ m.toNat = 5 ∨ m.toNat % 2 = 0)) ∨
      ((f.toNat = 2 ∨ f.toNat = 3) ∧ n.toNat % 2 = 0 ∧ (m.toNat = 1 ∨ m.toNat = 3 ∨ m.toNat = 5 ∨ m.toNat % 2 = 0)) ∨
      ((f.toNat = 4 ∨ f.toNat = 5) ∧ n.toNat % 4 = 0 ∧ (m.toNat = 3 ∨ m.toNat = 5)) ∨
      ((f.toNat = 6 ∨ f.toNat = 7) ∧ n.toNat % 8 = 0 ∧ (m.toNat = 3 ∨ m.toNat = 5)) ∨
      ((f.toNat = 8 ∨ f.toNat = 9) ∧ m.toNat % 2 = 0) ∨ (0xA ≤ f.toNat ∧ f.toNat ≤ 0xE ∧ m.toNat < 8) ∨
      (f.toNat = 0xF ∧ n.toNat = 0)) := by
  cases f using nibbleCases with
  | x0 | x1 | x2 | x3 | x4 | x5 | x6 | x7 =>
    cases m using nibbleCases <;> simp [decode9, isER_eq, isXR_eq, isQR_eq]
  | _ => simp [decode9, isER_eq, nibble_msb_eq, nibble_beq_eq]

theorem decodeA_illegal (n m f : BitVec 4) : decodeA n m f = .illegal ↔
    ¬ ((f.toNat ≤ 2 ∧ (m.toNat < 8 ∨ n.toNat = 0)) ∨ ((f.toNat = 3 ∨ f.toNat = 4 ∨ f.toNat = 7) ∧ m.toNat = 0) ∨
      ((f.toNat = 5 ∨ f.toNat = 0xD) ∧ m.toNat = 0 ∧ n.toNat % 2 = 0) ∨
      ((f.toNat = 8 ∨ f.toNat = 9) ∧ n.toNat % 2 = 0 ∧ m.toNat % 2 = 0) ∨
      (f.toNat = 0xA ∧ ((n.toNat % 2 = 0 ∧ m.toNat = 1) ∨ (n.toNat = 1 ∧ m.toNat % 2 = 0))) ∨
      ((f.toNat = 0xB ∨ f.toNat = 0xC ∨ f.toNat = 0xF) ∧ n.toNat = 0)) := by
  cases f using nibbleCases with
  | x0 | x1 | x2 =>
    by_cases hm : 8 ≤ m.toNat <;> simp [decodeA, nibble_msb_eq, nibble_beq_eq, hm]
  | xA =>
    by_cases hm : m.toNat = 1 <;> simp [decodeA, isER_eq, nibble_beq_eq, hm]
  | _ => simp [decodeA, isER_eq, nibble_beq_eq]

theorem decodeB_illegal (n m f : BitVec 4) : decodeB n m f = .illegal ↔ ¬ n.toNat % 2 = 0 := by
  rcases top2Of_values m with hm | hm | hm | hm <;> simp [decodeB, hm, isER_eq]

theorem decodeD_legal (n m f : BitVec 4) : decodeD n m f ≠ .illegal := by
  rcases top2Of_values m with hm | hm | hm | hm <;> simp [decodeD, hm]

theorem decodeE_illegal (n m f : BitVec 4) : decodeE n m f = .illegal ↔
    ¬ (n.toNat % 2 = 0 ∨ n.toNat = 1 ∨ n.toNat = 3 ∨ n.toNat = 9 ∨ (n.toNat = 5 ∧ m.toNat < 4) ∨
      (n.toNat = 0xD ∧ m.toNat = 0 ∧ f.toNat = 8) ∨ (n.toNat = 0xB ∧ m.toNat = 0xF ∧ f.toNat = 7) ∨
      (n.toNat = 0xD ∧ m.toNat = 8 ∧ f.toNat = 0) ∨ (n.toNat = 0xB ∧ m.toNat = 7 ∧ f.toNat = 0xF)) := by
  cases n using nibbleCases with
  | xB => by_cases hm : m.toNat = 0xF <;> simp [decodeE, isER_eq, nibble_beq_eq, hm]
  | xD => by_cases hm : m.toNat = 0 <;> simp [decodeE, isER_eq, nibble_beq_eq, hm]
  | x5 => simp [decodeE, isER_eq, top2Of_eq_zero_iff]
  | x1 | x3 | x7 | x9 | xF => simp [decodeE, isER_eq]
  | _ => cases hm : m.msb <;> simp [decodeE, isER_eq, hm]

theorem decodeF_illegal (n m f : BitVec 4) : decodeF n m f = .illegal ↔
    ¬ ((f.toNat ≤ 1 ∧ m.toNat = 0) ∨
      ((f.toNat = 2 ∨ f.toNat = 3 ∨ f.toNat = 0xA ∨ f.toNat = 0xB) ∧ n.toNat = 0 ∧ m.toNat % 2 = 0) ∨
      ((f.toNat = 4 ∨ f.toNat = 9) ∧ n.toNat % 2 = 0) ∨
      ((f.toNat = 5 ∨ f.toNat = 6 ∨ f.toNat = 7) ∧ n.toNat % 2 = 0 ∧ m.toNat % 2 = 0) ∨
      (f.toNat = 0xC ∧ n.toNat = 0 ∧ m.toNat = 0) ∨
      (f.toNat = 0xE ∧ (m.toNat = 0 ∨ m.toNat = 4 ∨ m.toNat = 8 ∨ m.toNat = 0xC ∨
        ((m.toNat = 1 ∨ m.toNat = 5) ∧ n.toNat % 2 = 0) ∨ ((m.toNat = 2 ∨ m.toNat = 6) ∧ n.toNat % 4 = 0) ∨
        ((m.toNat = 3 ∨ m.toNat = 7) ∧ n.toNat % 8 = 0))) ∨
      (f.toNat = 0xF ∧ ((n.toNat = 0xE ∧ (m.toNat ≤ 3 ∨ m.toNat = 8 ∨ m.toNat = 9 ∨ m.toNat = 0xC)) ∨
        (n.toNat = 0xF ∧ m.toNat = 0xF)))) := by
  cases f using nibbleCases with
  | xE => cases m using nibbleCases <;> simp [decodeF, isER_eq, isXR_eq, isQR_eq]
  | xF =>
    by_cases hn : n.toNat = 0xE
    · cases m using nibbleCases <;> simp [decodeF, nibble_beq_eq, hn]
    · simp [decodeF, nibble_beq_eq, hn]
  | _ => simp [decodeF, isER_eq, nibble_beq_eq]

/-- A word is known by its nibbles. -/
theorem mkWord_eq_iff {t n m f : BitVec 4} {w : Word} : mkWord t n m f = w ↔
    t.toNat = (nib3 w).toNat ∧ n.toNat = (nib2 w).toNat ∧ m.toNat = (nib1 w).toNat ∧ f.toNat = (nib0 w).toNat := by
  simp only [BitVec.toNat_inj]
  constructor
  · rintro rfl
    simp
  · rintro ⟨rfl, rfl, rfl, rfl⟩
    exact mkWord_nibs w

/-- Settles O3, top nibble by top nibble. -/
theorem illegalWords : Obligations.IllegalWords := by
  intro w
  obtain ⟨t, n, m, f, rfl⟩ : ∃ t n m f, w = mkWord t n m f := ⟨_, _, _, _, (mkWord_nibs w).symm⟩
  simp only [nib3_mkWord, nib2_mkWord, nib1_mkWord, nib0_mkWord]
  cases t using nibbleCases with
  | x8 => rw [decodeFirst_top8, decode8_illegal]; simp
  | x9 => rw [decodeFirst_top9, decode9_illegal]; simp
  | xA => rw [decodeFirst_topA, decodeA_illegal]; simp
  | xB => rw [decodeFirst_topB, decodeB_illegal]; simp
  | xD => rw [decodeFirst_topD]; simp [decodeD_legal]
  | xE => rw [decodeFirst_topE, decodeE_illegal]; simp [mkWord_eq_iff, nib3, nib2, nib1, nib0]
  | xF => rw [decodeFirst_topF, decodeF_illegal]; simp
  | _ => simp [decodeFirst]

/-! ## Words of the spec's examples (95_test_vectors.md) -/

/-- The words the encoder gives for a legal instruction decode to it. -/
theorem decodesAs_of_encode {ws : List Word} {i : Instr} (hwf : i.wellFormed = true) (h : encode i = ws) : DecodesAs ws i :=
  ⟨hwf, fun rest => h ▸ (readsAs_encode hwf).decode rest⟩

/-- Settles O4: each of the words is what the encoder gives for its instruction. -/
theorem decodedWords : Obligations.DecodedWords :=
  ⟨decodesAs_of_encode rfl rfl, decodesAs_of_encode rfl rfl, decodesAs_of_encode rfl rfl, decodesAs_of_encode rfl rfl,
    decodesAs_of_encode rfl rfl, decodesAs_of_encode rfl rfl, decodesAs_of_encode rfl rfl, decodesAs_of_encode rfl rfl,
    decodesAs_of_encode rfl rfl, decodesAs_of_encode rfl rfl⟩

end Sys2Proof

namespace Sys2Proof.Machine

/-! ## Fetching bytes that stand at CSR:PC (20_memory.md R63, 30_encoding.md R92, R93) -/

/-- PC a number of bytes further on, inside its segment (10_state.md R27, R28). -/
def State.advance (s : State) (k : Nat) : State := { s with pc := s.pc + BitVec.ofNat 16 k }

theorem State.advance_zero (s : State) : s.advance 0 = s := by
  simp [State.advance]

theorem State.advance_advance (s : State) (j k : Nat) : (s.advance j).advance k = s.advance (j + k) := by
  simp only [State.advance, BitVec.add_assoc, BitVec.ofNat_add]

theorem even_advance {s : State} (h : s.pc.getLsbD 0 = false) (k : Nat) : (s.advance (2 * k)).pc.getLsbD 0 = false := by
  have heven := even_of_getLsbD_zero h
  simp [State.advance, BitVec.getLsbD, Nat.testBit_zero]
  omega

/-- PC past a fetched word, from an even PC: the mask of PC drops nothing. -/
theorem setPc_two_of_even {s : State} (h : s.pc.getLsbD 0 = false) : s.setPc (s.pc + 2) = s.advance 2 := by
  have heven : (s.pc + 2).getLsbD 0 = false := even_advance h 1
  rw [State.setPc, pc_mask_of_even heven]
  rfl

section
variable {s : State} {bs bs' : List Byte}

theorem bytesAtPc_of_append (h : BytesAtPc s (bs ++ bs')) : BytesAtPc s bs := by
  intro j hj
  have hbyte := h j (by simp; omega)
  rwa [List.getElem_append_left hj] at hbyte

theorem bytesAtPc_advance (h : BytesAtPc s (bs ++ bs')) : BytesAtPc (s.advance bs.length) bs' := by
  intro j hj
  have hbyte := h (bs.length + j) (by simp; omega)
  rw [List.getElem_append_right (by omega)] at hbyte
  simpa [State.advance, BitVec.add_assoc, BitVec.ofNat_add] using hbyte

end

section
variable {s : State} {w x : Word} {i : Instr}

theorem fetch16_bytes (heven : s.pc.getLsbD 0 = false) (h : BytesAtPc s (bytesOfWords [w])) :
    fetch16 s = .ok (w, s.advance 2) := by
  have hlow := h 0 (by simp [bytesOfWords])
  have hhigh := h 1 (by simp [bytesOfWords])
  simp only [bytesOfWords, List.getElem_cons_zero, List.getElem_cons_succ, BitVec.add_zero] at hlow hhigh
  obtain ⟨p, hp, hlow⟩ := readByte_eq_ok.1 hlow
  obtain ⟨q, hq, hhigh⟩ := readByte_eq_ok.1 hhigh
  rw [fetch16_eq hp hq, ← hlow, ← hhigh, setPc_two_of_even heven]
  exact congrArg (fun v => Except.ok (v, s.advance 2)) (wordOfBytes_cut w)

theorem fetchInstr_whole {s1 : State} (h : fetch16 s = .ok (w, s1)) (hw : decodeFirst w = .whole i) :
    fetchInstr s = .next (i, s1) := by
  simp only [fetchInstr, h, hw]

theorem fetchInstr_long {f : Word → Instr} {s1 s2 : State} (h : fetch16 s = .ok (w, s1)) (hw : decodeFirst w = .long f)
    (h' : fetch16 s1 = .ok (x, s2)) : fetchInstr s = .next (f x, s2) := by
  simp only [fetchInstr, h, hw, h']

theorem fetchInstr_illegal {s1 : State} (h : fetch16 s = .ok (w, s1)) (hw : decodeFirst w = .illegal) :
    fetchInstr s = .fault (.undefinedInstruction w (stoppedAfter s1)) := by
  simp only [fetchInstr, h, hw]

/-- A fetch reads the instruction whose words stand at CSR:PC, and PC moves past their bytes. -/
theorem fetchInstr_bytes {ws : List Word} (hreads : ReadsAs ws i) (heven : s.pc.getLsbD 0 = false)
    (h : BytesAtPc s (bytesOfWords ws)) : fetchInstr s = .next (i, s.advance (bytesOfWords ws).length) := by
  cases hreads with
  | whole hw => exact fetchInstr_whole (fetch16_bytes heven h) hw
  | @long w f x hw =>
    have hsplit : BytesAtPc s (bytesOfWords [w] ++ bytesOfWords [x]) := h
    have hfirst := fetch16_bytes heven (bytesAtPc_of_append hsplit)
    have hlen : (bytesOfWords [w]).length = 2 := rfl
    have hnext : BytesAtPc (s.advance 2) (bytesOfWords [x]) := hlen ▸ bytesAtPc_advance hsplit
    have hsecond := fetch16_bytes (s := s.advance 2) (even_advance heven 1) hnext
    rw [State.advance_advance] at hsecond
    exact fetchInstr_long hfirst hw hsecond

/-! ## A step of one instruction (30_encoding.md R92, R121) -/

theorem runStep_fetch_fault {fuel : Nat} {x : Fault} (h : fetchInstr s = .fault x) : runStep (fuel + 1) s = .fault x := by
  rw [runStep, h]

theorem runStep_last_onNext {fuel : Nat} {s1 : State} (hi : fetchInstr s = .next (i, s1)) (hp : i.isDsrPrefix = false) :
    runStep (fuel + 1) s = onNext (fun t => t.setSeg 0) (exec i s1) := by
  rw [runStep_last hi hp]
  cases exec i s1 <;> rfl

end

/-! ## DSR prefixes (47_misc.md R330 to R333) -/

/-- DSR and the segment in force replaced. -/
def State.withData (s : State) (x : Byte × Byte) : State := { s with dsr := x.1, seg := x.2 }

theorem State.withData_advance (s : State) (x : Byte × Byte) (k : Nat) :
    (s.withData x).advance k = (s.advance k).withData x := rfl

theorem isDsrPrefix_cases {p : Instr} (hp : p.isDsrPrefix = true) :
    (∃ imm, p = .dsrImm8 imm) ∨ (∃ d, p = .dsrRd d) ∨ p = .dsrDSR := by
  cases p with
  | dsrImm8 imm => exact .inl ⟨imm, rfl⟩
  | dsrRd d => exact .inr (.inl ⟨d, rfl⟩)
  | dsrDSR => exact .inr (.inr rfl)
  | _ => exact absurd hp Bool.false_ne_true

theorem exec_prefix {p : Instr} (hp : p.isDsrPrefix = true) (s : State) :
    exec p s = .next (s.withData (prefixEffect s (s.dsr, s.seg) p)) := by
  rcases isDsrPrefix_cases hp with ⟨imm, rfl⟩ | ⟨d, rfl⟩ | rfl <;> rfl

theorem wellFormed_of_isDsrPrefix {p : Instr} (hp : p.isDsrPrefix = true) : p.wellFormed = true := by
  rcases isDsrPrefix_cases hp with ⟨imm, rfl⟩ | ⟨d, rfl⟩ | rfl <;> rfl

theorem encodeBytes_length_of_isDsrPrefix {p : Instr} (hp : p.isDsrPrefix = true) : (encodeBytes p).length = 2 := by
  rcases isDsrPrefix_cases hp with ⟨imm, rfl⟩ | ⟨d, rfl⟩ | rfl <;> rfl

theorem flatMap_encodeBytes_length {ps : List Instr} (hps : ∀ p ∈ ps, p.isDsrPrefix = true) :
    (ps.flatMap encodeBytes).length = 2 * ps.length := by
  induction ps with
  | nil => rfl
  | cons p ps ih =>
    rw [List.flatMap_cons, List.length_append, encodeBytes_length_of_isDsrPrefix (hps p List.mem_cons_self),
      ih fun q hq => hps q (List.mem_cons_of_mem p hq), List.length_cons]
    omega

/-- A step executes the prefixes that stand at CSR:PC, one after the other: only PC, DSR and the segment in force change. -/
theorem runStep_prefixes {ps : List Instr} (hps : ∀ p ∈ ps, p.isDsrPrefix = true) (fuel : Nat) :
    ∀ {s : State}, s.pc.getLsbD 0 = false → BytesAtPc s (ps.flatMap encodeBytes) →
      runStep (ps.length + fuel) s =
        runStep fuel ((s.advance (2 * ps.length)).withData (ps.foldl (prefixEffect s) (s.dsr, s.seg))) := by
  induction ps with
  | nil =>
    intro s _ _
    simp [State.advance_zero, State.withData]
  | cons p ps ih =>
    intro s heven h
    have hp := hps p List.mem_cons_self
    have hlen := encodeBytes_length_of_isDsrPrefix hp
    rw [List.flatMap_cons] at h
    have hfetch : fetchInstr s = .next (p, s.advance 2) :=
      hlen ▸ fetchInstr_bytes (readsAs_encode (wellFormed_of_isDsrPrefix hp)) heven (bytesAtPc_of_append h)
    have hrest : BytesAtPc (s.advance 2) (ps.flatMap encodeBytes) := hlen ▸ bytesAtPc_advance h
    have htail := ih (fun q hq => hps q (List.mem_cons_of_mem p hq))
      (s := (s.advance 2).withData (prefixEffect s (s.dsr, s.seg) p)) (even_advance heven 1) hrest
    calc runStep (ps.length + 1 + fuel) s
        = runStep (ps.length + fuel + 1) s := by rw [Nat.add_right_comm]
      _ = runStep (ps.length + fuel) ((s.advance 2).withData (prefixEffect s (s.dsr, s.seg) p)) :=
          runStep_prefix hfetch (exec_prefix hp _) hp
      _ = runStep fuel (((s.advance 2).advance (2 * ps.length)).withData
            ((p :: ps).foldl (prefixEffect s) (s.dsr, s.seg))) := htail
      _ = _ := by rw [State.advance_advance, Nat.add_comm 2, List.length_cons, Nat.mul_succ]

/-- A word of no row after the prefixes stops the core there (30_encoding.md R121). -/
theorem runStep_prefixes_illegal {ps : List Instr} (hps : ∀ p ∈ ps, p.isDsrPrefix = true) {w : Word}
    (hw : decodeFirst w = .illegal) (fuel : Nat) {s : State} (heven : s.pc.getLsbD 0 = false)
    (h : BytesAtPc s (ps.flatMap encodeBytes ++ bytesOfWords [w])) :
    runStep (ps.length + (fuel + 1)) s = .fault (.undefinedInstruction w
      (stoppedAfter ((s.advance (2 * ps.length + 2)).withData (ps.foldl (prefixEffect s) (s.dsr, s.seg))))) := by
  have hword : BytesAtPc (s.advance (2 * ps.length)) (bytesOfWords [w]) :=
    flatMap_encodeBytes_length hps ▸ bytesAtPc_advance h
  have hfetch := fetch16_bytes (s := (s.advance (2 * ps.length)).withData (ps.foldl (prefixEffect s) (s.dsr, s.seg)))
    (even_advance heven ps.length) hword
  rw [State.withData_advance, State.advance_advance] at hfetch
  rw [runStep_prefixes hps _ heven (bytesAtPc_of_append h), runStep_fetch_fault (fetchInstr_illegal hfetch hw)]

end Sys2Proof.Machine

namespace Sys2Proof

open Machine

/-- Settles O5: the prefixes are executed, then the fetch of the word of no row stops the core. -/
theorem illegalWordStops : Obligations.IllegalWordStops := by
  intro s ps w hrun heven hps hcount h hw left
  have hfuel : maxStepInstrs = ps.length + (0x8000 - ps.length + 1) := by
    rw [maxStepInstrs]; omega
  refine ⟨?_, step_stopped rfl, rfl⟩
  rw [step_running hrun, hfuel]
  exact runStep_prefixes_illegal (s := (s.setSeg 0).setSignal none) hps hw _ heven h

/-- Settles O6: the step fetches the instruction whose bytes the decoder reads, and executes it. -/
theorem stepRunsInstruction : Obligations.StepRunsInstruction := by
  intro s bs i hrun heven h hdecode _ hp
  obtain ⟨ws, hreads, hbytes⟩ := readsAs_of_decode hdecode
  rw [List.append_nil] at hbytes
  subst hbytes
  have hfetch : fetchInstr ((s.setSeg 0).setSignal none) = _ := fetchInstr_bytes hreads heven h
  rw [step_running hrun]
  exact runStep_last_onNext hfetch hp

end Sys2Proof

/-! # 40_arithmetic.md: the flags of the exact result, and the instructions that write a result and its flags -/

namespace Sys2Proof.Machine

/-! ## Sign and zero, read from the number -/

/-- Zero is read from the number. -/
theorem beq_zero_eq {w : Nat} (v : BitVec w) : (v == 0#w) = decide (v.toNat = 0) := by
  rw [Bool.eq_iff_iff, beq_iff_eq, decide_eq_true_iff, ← BitVec.toNat_inj, BitVec.toNat_zero]

theorem toNat_ofInt_cast (w : Nat) (x : Int) : ((BitVec.ofInt w x).toNat : Int) = x % 2 ^ w := by
  rw [BitVec.toNat_ofInt, Int.toNat_of_nonneg (Int.emod_nonneg _ (by positivity))]
  norm_cast

theorem ofInt_beq_zero (w : Nat) (x : Int) : (BitVec.ofInt w x == 0#w) = decide (x % 2 ^ w = 0) := by
  simp only [beq_zero_eq, ← toNat_ofInt_cast, Int.natCast_eq_zero]

theorem msb_iff_int {w : Nat} (x : BitVec (w + 1)) : x.msb = decide ((2 : Int) ^ w ≤ x.toNat) := by
  rw [msb_iff]
  norm_cast

theorem msb_ofInt (w : Nat) (x : Int) : (BitVec.ofInt (w + 1) x).msb = decide ((2 : Int) ^ w ≤ x % 2 ^ (w + 1)) := by
  rw [msb_iff_int, toNat_ofInt_cast]

theorem toInt_eq_ite {w : Nat} (x : BitVec (w + 1)) :
    x.toInt = if (2 : Int) ^ w ≤ x.toNat then (x.toNat : Int) - 2 ^ (w + 1) else x.toNat := by
  rw [BitVec.toInt_eq_msb_cond, msb_iff_int]
  norm_cast
  simp only [decide_eq_true_iff]

theorem toNat_lt_int {w : Nat} (x : BitVec w) : (x.toNat : Int) < 2 ^ w := by exact_mod_cast x.isLt

/-! ## Signed overflow (40_arithmetic.md R130 to R133) -/

/-- The remainder of a number at most one modulus away from the remainders: at most one carry or borrow. -/
theorem emod_eq_ite {x m : Int} (hlow : -m ≤ x) (hhigh : x < 2 * m) :
    x % m = if x < 0 then x + m else if m ≤ x then x - m else x := by
  split_ifs
  · rw [← Int.add_emod_right, Int.emod_eq_of_lt] <;> omega
  · rw [← Int.sub_emod_right, Int.emod_eq_of_lt] <;> omega
  · rw [Int.emod_eq_of_lt] <;> omega

theorem cast_toNat_le_one (b : Bool) : (b.toNat : Int) ≤ 1 := by exact_mod_cast b.toNat_le

/-- The signs of operands and result show just when the exact signed sum does not fit. -/
theorem addFlags_ov (h : Nat) {w : Nat} (a b : BitVec (w + 1)) (cin : Bool) :
    (addFlags h a b cin).2.ov = outOfRange (w + 1) (a.toInt + b.toInt + cin.toNat) := by
  have ha := toNat_lt_int a
  have hb := toNat_lt_int b
  have hcin := cast_toNat_le_one cin
  have hmod := emod_eq_ite (x := (a.toNat : Int) + b.toNat + cin.toNat) (m := 2 ^ (w + 1)) (by omega) (by omega)
  simp only [addFlags, ← BitVec.ofInt_natCast, Int.natCast_add, msb_iff_int, toNat_ofInt_cast, hmod, outOfRange, toInt_eq_ite,
    Nat.add_sub_cancel]
  simp only [pow_succ] at ha hb ⊢
  generalize (2 : Int) ^ w = half at *
  rw [Bool.eq_iff_iff]
  simp only [Bool.and_eq_true, beq_iff_eq, bne_iff_ne, ne_eq, decide_eq_decide, decide_eq_true_iff]
  split_ifs <;> omega

/-- The signs of operands and result show just when the exact signed difference does not fit. -/
theorem subFlags_ov (h : Nat) {w : Nat} (a b : BitVec (w + 1)) (bin : Bool) :
    (subFlags h a b bin).2.ov = outOfRange (w + 1) (a.toInt - b.toInt - bin.toNat) := by
  have ha := toNat_lt_int a
  have hb := toNat_lt_int b
  have hbin := cast_toNat_le_one bin
  have hmod := emod_eq_ite (x := (a.toNat : Int) - b.toNat - bin.toNat) (m := 2 ^ (w + 1)) (by omega) (by omega)
  simp only [subFlags, msb_iff_int, toNat_ofInt_cast, hmod, outOfRange, toInt_eq_ite, Nat.add_sub_cancel]
  simp only [pow_succ] at ha hb ⊢
  generalize (2 : Int) ^ w = half at *
  rw [Bool.eq_iff_iff]
  simp only [Bool.and_eq_true, bne_iff_ne, ne_eq, decide_eq_decide, decide_eq_true_iff]
  split_ifs <;> omega

/-! ## Borrows (40_arithmetic.md R131, R133) -/

theorem subFlags_c (h : Nat) {w : Nat} (a b : BitVec w) (bin : Bool) :
    (subFlags h a b bin).2.c = decide (a.toNat < b.toNat + bin.toNat) := by
  simp only [subFlags, decide_eq_decide]
  omega

theorem subFlags_hc (h : Nat) {w : Nat} (a b : BitVec w) (bin : Bool) :
    (subFlags h a b bin).2.hc = decide (a.toNat % 2 ^ h < b.toNat % 2 ^ h + bin.toNat) := by
  simp only [subFlags, decide_eq_decide]
  generalize a.toNat % 2 ^ h = x, b.toNat % 2 ^ h = y
  omega

/-- The flags of a subtraction, C and HC as borrows between numbers. -/
theorem subFlags_borrows (h : Nat) {w : Nat} (a b : BitVec w) (bin : Bool) :
    (subFlags h a b bin).2 =
      { (subFlags h a b bin).2 with
        c := decide (a.toNat < b.toNat + bin.toNat)
        hc := decide (a.toNat % 2 ^ h < b.toNat % 2 ^ h + bin.toNat) } := by
  rw [← subFlags_c h, ← subFlags_hc]

/-! ## PSW after each helper -/

/-- The five flags of an addition, committed to PSW, are those of the exact sum. -/
theorem withArith_addFlags (p : Byte) (h : Nat) {w : Nat} (a b : BitVec (w + 1)) (cin : Bool) :
    withArith p (addFlags h a b cin).2 = pswSum h p a b cin := by
  have hz : (addFlags h a b cin).2.z = decide ((a.toNat + b.toNat + cin.toNat) % 2 ^ (w + 1) = 0) :=
    (beq_zero_eq _).trans (by rw [BitVec.toNat_ofNat])
  have hs : (addFlags h a b cin).2.s = decide (2 ^ w ≤ (a.toNat + b.toNat + cin.toNat) % 2 ^ (w + 1)) :=
    (msb_iff _).trans (by rw [BitVec.toNat_ofNat])
  rw [withArith_eq, hz, hs, addFlags_ov]
  rfl

/-- The five flags of a subtraction, committed to PSW, are those of the exact difference. -/
theorem withArith_subFlags (p : Byte) (h : Nat) {w : Nat} (a b : BitVec (w + 1)) (bin : Bool) :
    withArith p (subFlags h a b bin).2 = pswDifference h p a b bin := by
  have hz : (subFlags h a b bin).2.z = decide (((a.toNat : Int) - b.toNat - bin.toNat) % 2 ^ (w + 1) = 0) :=
    ofInt_beq_zero _ _
  have hs : (subFlags h a b bin).2.s = decide ((2 : Int) ^ w ≤ ((a.toNat : Int) - b.toNat - bin.toNat) % 2 ^ (w + 1)) :=
    msb_ofInt _ _
  rw [withArith_eq, subFlags_c, subFlags_hc, hz, hs, subFlags_ov]
  rfl

/-- Z and S of a value, committed to PSW. -/
theorem withZS_eq_pswOfValue (p : Byte) {w : Nat} (v : BitVec (w + 1)) : withZS p v = pswOfValue p v := by
  rw [withZS_eq, beq_zero_eq, msb_iff]
  rfl

/-! ## What the flags of a comparison mean (40_arithmetic.md R143) -/

theorem pswC_pswDifference (h : Nat) (p : Byte) {w : Nat} (a b : BitVec w) :
    pswC (pswDifference h p a b false) = true ↔ a.toNat < b.toNat := by
  simp [pswDifference]

theorem pswZ_pswDifference (h : Nat) (p : Byte) {w : Nat} (a b : BitVec (w + 1)) :
    pswZ (pswDifference h p a b false) = true ↔ a = b := by
  have ha := toNat_lt_int a
  have hb := toNat_lt_int b
  have hmod := emod_eq_ite (x := (a.toNat : Int) - b.toNat - (0 : Nat)) (m := 2 ^ (w + 1)) (by omega) (by omega)
  rw [← BitVec.toNat_inj]
  simp only [pswDifference, pswZ_packPsw, Bool.toNat_false, hmod, decide_eq_true_iff]
  split_ifs <;> omega

/-- OV says that S is the wrong sign, so OV xor S is the sign of the exact difference. -/
theorem pswOV_xor_pswS_pswDifference (h : Nat) (p : Byte) {w : Nat} (a b : BitVec (w + 1)) :
    (pswOV (pswDifference h p a b false) ^^ pswS (pswDifference h p a b false)) = true ↔ a.toInt < b.toInt := by
  have ha := toNat_lt_int a
  have hb := toNat_lt_int b
  have hmod := emod_eq_ite (x := (a.toNat : Int) - b.toNat - (0 : Nat)) (m := 2 ^ (w + 1)) (by omega) (by omega)
  simp only [pswDifference, pswOV_packPsw, pswS_packPsw, Bool.toNat_false, hmod, outOfRange, toInt_eq_ite,
    Nat.add_sub_cancel, bne_iff_ne, ne_eq, decide_eq_decide]
  simp only [pow_succ] at ha hb ⊢
  generalize (2 : Int) ^ w = half at *
  split_ifs <;> omega

/-! ## The shared effects: PSW first, then the register (30_encoding.md R92) -/

theorem arithR_add8 (n : RegNum) (a b : Byte) (cin : Bool) (s : State) :
    arithR n (add8 a b cin) s =
      (s.setPsw (pswSum 4 s.psw a b cin)).setR n (BitVec.ofNat 8 (a.toNat + b.toNat + cin.toNat)) := by
  rw [← withArith_addFlags]
  rfl

theorem arithR_sub8 (n : RegNum) (a b : Byte) (bin : Bool) (s : State) :
    arithR n (sub8 a b bin) s =
      (s.setPsw (pswDifference 4 s.psw a b bin)).setR n (BitVec.ofInt 8 ((a.toNat : Int) - b.toNat - bin.toNat)) := by
  rw [← withArith_subFlags]
  rfl

theorem arithER_add16 (n : RegNum) (a b : Word) (s : State) :
    arithER n (add16 a b) s = (s.setPsw (pswSum 12 s.psw a b false)).setEr n (BitVec.ofNat 16 (a.toNat + b.toNat)) := by
  rw [← withArith_addFlags]
  rfl

theorem setArith_sub8 (a b : Byte) (bin : Bool) (s : State) :
    s.setArith (sub8 a b bin).2 = s.setPsw (pswDifference 4 s.psw a b bin) :=
  congrArg s.setPsw (withArith_subFlags s.psw 4 a b bin)

theorem setArith_sub16 (a b : Word) (s : State) :
    s.setArith (sub16 a b).2 = s.setPsw (pswDifference 12 s.psw a b false) :=
  congrArg s.setPsw (withArith_subFlags s.psw 12 a b false)

theorem logicR_eq (n : RegNum) (v : Byte) (s : State) : logicR n v s = (s.setPsw (pswOfValue s.psw v)).setR n v := by
  rw [← withZS_eq_pswOfValue]
  rfl

theorem logicER_eq (n : RegNum) (v : Word) (s : State) : logicER n v s = (s.setPsw (pswOfValue s.psw v)).setEr n v := by
  rw [← withZS_eq_pswOfValue]
  rfl

end Sys2Proof.Machine

namespace Sys2Proof

open Machine

/-! ## From an instruction's next state to what it writes -/

section
variable {ws : List Word} {i : Instr} {n : RegNum} {p : State → Byte} {t : State → State}

theorem writesByte_of_exec {v : State → Byte} (hwf : i.wellFormed = true) (hwords : encode i = ws)
    (hexec : ∀ s, exec i s = .next (t s)) (hnext : ∀ s, t s = (s.setPsw (p s)).setR n (v s)) : WritesByte ws i n v p := by
  refine ⟨decodesAs_of_encode hwf hwords, fun s _ => ⟨t s, hexec s, ?_⟩⟩
  rw [hnext]
  refine ⟨fun x => ?_, s.setPsw_psw (p s), ?_⟩
  · rw [State.setR_r, State.setPsw_r]
    exact if_congr eq_comm rfl rfl
  · rw [OnlyRegsPsw, State.setR_psw, State.setPsw_psw]
    rfl

theorem writesPair_of_exec {v : State → Word} (hwf : i.wellFormed = true) (hwords : encode i = ws)
    (hexec : ∀ s, exec i s = .next (t s)) (hnext : ∀ s, t s = (s.setPsw (p s)).setEr n (v s)) : WritesPair ws i n v p := by
  refine ⟨decodesAs_of_encode hwf hwords, fun s _ => ⟨t s, hexec s, ?_⟩⟩
  rw [hnext]
  obtain ⟨hinside, houtside⟩ := (s.setPsw (p s)).setGroup_written (by decide : 2 ≤ 16) n (v s)
  refine ⟨⟨hinside, houtside⟩, ?_, ?_⟩
  · rw [State.setEr_psw, State.setPsw_psw]
  · rw [OnlyRegsPsw, State.setEr_psw, State.setPsw_psw]
    exact (s.setPsw (p s)).setGroup_eq 2 n (v s)

theorem writesPsw_of_exec (hwf : i.wellFormed = true) (hwords : encode i = ws) (hexec : ∀ s, exec i s = .next (t s))
    (hnext : ∀ s, t s = s.setPsw (p s)) : WritesPsw ws i p := by
  refine ⟨decodesAs_of_encode hwf hwords, fun s _ => ⟨t s, hexec s, ?_⟩⟩
  rw [hnext]
  exact ⟨s.setPsw_psw (p s), congrArg s.setPsw (s.setPsw_psw (p s)).symm⟩

end

/-! ## Words with an immediate (30_encoding.md R97) -/

/-- The low byte of the word is the immediate. -/
theorem words_imm8 (x n : BitVec 4) (imm : Byte) :
    [mkWord x n (hiNibble imm) (loNibble imm)] = [(x ++ n ++ imm : Word)] := by
  rw [mkWord, BitVec.append_assoc (x₁ := x ++ n), hi_append_lo]
  rfl

/-- The low seven bits of the word are the immediate, under a bit that selects the instruction. -/
theorem words_imm7 (x n : BitVec 4) (b : BitVec 1) (imm : BitVec 7) :
    [mkWord x n (b ++ imm.extractLsb' 4 3) (imm.extractLsb' 0 4)] = [(x ++ n ++ b ++ imm : Word)] := by
  have hlow : (b ++ imm.extractLsb' 4 3) ++ imm.extractLsb' 0 4 = b ++ imm := by
    revert b imm; decide
  rw [mkWord, BitVec.append_assoc (x₁ := x ++ n), hlow, BitVec.append_assoc (x₁ := x ++ n)]

/-! ## The statements -/

/-- Settles O13: the results and the flags of a sum stand in the definitions; the borrows and the overflow are the general
laws at widths 8 and 16. -/
theorem addSubtractHelpers : Obligations.AddSubtractHelpers := by
  refine ⟨fun a b cin => ⟨rfl, rfl, addFlags_ov 4 a b cin⟩,
    fun a b bin => ⟨rfl, (subFlags_borrows 4 a b bin).trans rfl, subFlags_ov 4 a b bin⟩,
    fun a b => ⟨rfl, rfl, ?_⟩, fun a b => ⟨?_, (subFlags_borrows 12 a b false).trans rfl, ?_⟩⟩
  · simpa [add16] using addFlags_ov 12 a b false
  · simp [sub16]
  · simpa [sub16] using subFlags_ov 12 a b false

/-- Settles O14: each form is the addition helper with its flags, then the write-back. -/
theorem byteAddition : Obligations.ByteAddition :=
  ⟨fun _ _ => writesByte_of_exec rfl rfl (fun _ => rfl) fun _ => arithR_add8 ..,
    fun _ _ => writesByte_of_exec rfl (words_imm8 ..) (fun _ => rfl) fun _ => arithR_add8 ..,
    fun _ _ => writesByte_of_exec rfl rfl (fun _ => rfl) fun _ => arithR_add8 ..,
    fun _ _ => writesByte_of_exec rfl (words_imm8 ..) (fun _ => rfl) fun _ => arithR_add8 ..⟩

/-- Settles O15: each form is the subtraction helper with its flags, then the write-back; NEG subtracts from 0. -/
theorem byteSubtraction : Obligations.ByteSubtraction := by
  refine ⟨fun _ _ => writesByte_of_exec rfl rfl (fun _ => rfl) fun s => (arithR_sub8 ..).trans ?_,
    fun _ _ => writesByte_of_exec rfl rfl (fun _ => rfl) fun _ => arithR_sub8 ..,
    fun n => writesByte_of_exec rfl (words_imm8 0x8 n 0x5F) (fun _ => rfl) fun s => (arithR_sub8 ..).trans ?_⟩
  · simp
  · simp

/-- Settles O16: a comparison is the subtraction helper's flags alone; what they mean holds at every width. -/
theorem byteCompare : Obligations.ByteCompare :=
  ⟨fun _ _ => writesPsw_of_exec rfl rfl (fun _ => rfl) fun _ => setArith_sub8 ..,
    fun _ _ => writesPsw_of_exec rfl (words_imm8 ..) (fun _ => rfl) fun _ => setArith_sub8 ..,
    fun _ _ => writesPsw_of_exec rfl rfl (fun _ => rfl) fun _ => setArith_sub8 ..,
    fun _ _ => writesPsw_of_exec rfl (words_imm8 ..) (fun _ => rfl) fun _ => setArith_sub8 ..,
    fun p a b => ⟨pswC_pswDifference 4 p a b, pswZ_pswDifference 4 p a b, pswOV_xor_pswS_pswDifference 4 p a b⟩⟩

/-- Settles O17: each form writes Z and S of its result, then the result. -/
theorem byteLogicAndMoves : Obligations.ByteLogicAndMoves :=
  ⟨fun _ _ => writesByte_of_exec rfl rfl (fun _ => rfl) fun _ => logicR_eq ..,
    fun _ _ => writesByte_of_exec rfl (words_imm8 ..) (fun _ => rfl) fun _ => logicR_eq ..,
    fun _ _ => writesByte_of_exec rfl rfl (fun _ => rfl) fun _ => logicR_eq ..,
    fun _ _ => writesByte_of_exec rfl (words_imm8 ..) (fun _ => rfl) fun _ => logicR_eq ..,
    fun _ _ => writesByte_of_exec rfl rfl (fun _ => rfl) fun _ => logicR_eq ..,
    fun _ _ => writesByte_of_exec rfl (words_imm8 ..) (fun _ => rfl) fun _ => logicR_eq ..,
    fun _ _ => writesByte_of_exec rfl rfl (fun _ => rfl) fun _ => logicR_eq ..,
    fun _ _ => writesByte_of_exec rfl (words_imm8 ..) (fun _ => rfl) fun _ => logicR_eq ..,
    fun p _ v => withZS_eq p v⟩

/-- The sum with a sign-extended immediate is the sum with its signed number (30_encoding.md R97). -/
theorem ofNat_add_sext7 (a : Word) (imm : BitVec 7) :
    BitVec.ofNat 16 (a.toNat + (sext7 imm).toNat) = BitVec.ofInt 16 (a.toNat + imm.toInt) := by
  rw [BitVec.ofNat_add, BitVec.ofInt_add, BitVec.ofInt_natCast, BitVec.ofNat_toNat 16 (sext7 imm), BitVec.setWidth_eq]
  rfl

/-- Settles O18: each form is the 16-bit helper, or Z and S alone; `sext7` is the immediate's signed number. -/
theorem pairArithmetic : Obligations.PairArithmetic := by
  refine ⟨fun n m hn hm => ?_, fun n imm hn => ⟨?_, ?_⟩⟩
  · have hwf : (isER n && isER m) = true := by rw [hn, hm]; rfl
    exact ⟨writesPair_of_exec hwf rfl (fun _ => rfl) fun _ => arithER_add16 ..,
      writesPsw_of_exec hwf rfl (fun _ => rfl) fun _ => setArith_sub16 ..,
      writesPair_of_exec hwf rfl (fun _ => rfl) fun _ => logicER_eq ..⟩
  · refine writesPair_of_exec hn (words_imm7 ..) (fun _ => rfl) fun s => ?_
    rw [← ofNat_add_sext7]
    exact arithER_add16 ..
  · exact writesPair_of_exec hn (words_imm7 ..) (fun _ => rfl) fun _ => logicER_eq ..

end Sys2Proof

/-! # 41_shift.md: shifts by a count, and rotations through CS -/

namespace Sys2Proof.Machine

/-! ## The plain shifts in exact numbers (41_shift.md R171, R175, R177) -/

theorem shiftLeft_eq (x : Byte) (w : Nat) :
    shiftLeft x w = (BitVec.ofNat 8 (x.toNat * 2 ^ w % 256), x.getLsbD (8 - w)) := by
  refine Prod.ext (BitVec.eq_of_toNat_eq ?_) rfl
  simp [shiftLeft, Nat.shiftLeft_eq]

theorem shiftRight_eq (x : Byte) (w : Nat) :
    shiftRight x w = (BitVec.ofNat 8 (x.toNat / 2 ^ w), x.getLsbD (w - 1)) := by
  have hlt : x.toNat / 2 ^ w < 2 ^ 8 := (Nat.div_le_self _ _).trans_lt x.isLt
  refine Prod.ext (BitVec.eq_of_toNat_eq ?_) rfl
  rw [BitVec.toNat_ofNat, Nat.mod_eq_of_lt hlt, ← Nat.shiftRight_eq_div_pow]
  exact BitVec.toNat_ushiftRight ..

/-- Copies of bit 7 entering at the top make the quotient round down. -/
theorem shiftRightArith_eq (x : Byte) (w : Nat) :
    shiftRightArith x w = (BitVec.ofNat 8 (x.toInt / 2 ^ w % 256).toNat, x.getLsbD (w - 1)) := by
  refine Prod.ext (BitVec.eq_of_toNat_eq ?_) rfl
  have hdiv : x.toInt >>> w = x.toInt / 2 ^ w := by rw [Int.shiftRight_eq_div_pow]; norm_cast
  rw [shiftRightArith, BitVec.sshiftRight, hdiv, BitVec.toNat_ofInt, BitVec.toNat_ofNat]
  norm_num
  omega

/-! ## The 9-bit rings of SLLC and SRLC (41_shift.md R173, R179) -/

/-- `CS : R[n]`, the ring that SLLC turns. -/
def carryAbove (x : Byte × Bool) : BitVec 9 := BitVec.ofBool x.2 ++ x.1

/-- `R[n] : CS`, the ring that SRLC turns. -/
def carryBelow (x : Byte × Bool) : BitVec 9 := x.1 ++ BitVec.ofBool x.2

theorem carryAbove_toNat (x : Byte) (cs : Bool) : (carryAbove (x, cs)).toNat = cs.toNat * 256 + x.toNat := by
  have hx := x.isLt
  rw [carryAbove, BitVec.toNat_append, BitVec.toNat_ofBool, ← Nat.shiftLeft_add_eq_or_of_lt hx, Nat.shiftLeft_eq]

theorem carryBelow_toNat (x : Byte) (cs : Bool) : (carryBelow (x, cs)).toNat = x.toNat * 2 + cs.toNat := by
  have hcs : cs.toNat < 2 ^ 1 := cs.toNat_lt
  rw [carryBelow, BitVec.toNat_append, BitVec.toNat_ofBool, ← Nat.shiftLeft_add_eq_or_of_lt hcs, Nat.shiftLeft_eq]

/-- The register and CS, read back from the ring `CS : R[n]`. -/
theorem eq_of_carryAbove {x : Byte × Bool} {v : Nat} (h : (carryAbove x).toNat = v) :
    x = (BitVec.ofNat 8 (v % 256), v.testBit 8) := by
  obtain ⟨x, cs⟩ := x
  rw [carryAbove_toNat] at h
  have hx := x.isLt
  subst h
  refine Prod.ext (BitVec.eq_of_toNat_eq ?_) ?_
  · simp; omega
  · rw [Nat.testBit_eq_decide_div_mod_eq]
    cases cs
    · simp; omega
    · simp; omega

/-- The register and CS, read back from the ring `R[n] : CS`. -/
theorem eq_of_carryBelow {x : Byte × Bool} {v : Nat} (h : (carryBelow x).toNat = v) :
    x = (BitVec.ofNat 8 (v / 2), v.testBit 0) := by
  obtain ⟨x, cs⟩ := x
  rw [carryBelow_toNat] at h
  have hx := x.isLt
  subst h
  refine Prod.ext (BitVec.eq_of_toNat_eq ?_) ?_
  · cases cs
    · simp
    · simp; omega
  · rw [Nat.testBit_zero]
    cases cs <;> simp

/-- One place of SLLC: CS enters at bit 0. -/
theorem getLsbD_rotateLeft_one (x : Byte) (cs : Bool) {i : Nat} (hi : i < 8) :
    (rotateLeft 1 (x, cs)).1.getLsbD i = if i = 0 then cs else x.getLsbD (i - 1) := by
  rcases i with _ | i
  · simp [rotateLeft]
  · simp [rotateLeft, hi, Nat.lt_of_succ_lt hi]

/-- One place of SRLC: CS enters at bit 7. -/
theorem getLsbD_rotateRight_one (x : Byte) (cs : Bool) {i : Nat} (hi : i < 8) :
    (rotateRight 1 (x, cs)).1.getLsbD i = if i = 7 then cs else x.getLsbD (i + 1) := by
  by_cases h : i = 7
  · simp [rotateRight, h]
  · have hlt : i < 7 := by omega
    simp [rotateRight, h, hlt, Nat.add_comm 1 i]

/-- One place of SLLC turns the ring by one place. -/
theorem carryAbove_rotateLeft_one (x : Byte × Bool) : carryAbove (rotateLeft 1 x) = (carryAbove x).rotateLeft 1 := by
  obtain ⟨x, cs⟩ := x
  apply BitVec.eq_of_getLsbD_eq
  intro i hi
  rw [BitVec.getLsbD_rotateLeft, carryAbove, carryAbove]
  simp only [BitVec.getLsbD_append]
  by_cases h : i < 8
  · rw [getLsbD_rotateLeft_one _ _ h]
    grind
  · have h8 : i = 8 := by omega
    simp [h8, rotateLeft]

/-- One place of SRLC turns the ring by one place the other way. -/
theorem carryBelow_rotateRight_one (x : Byte × Bool) : carryBelow (rotateRight 1 x) = (carryBelow x).rotateRight 1 := by
  obtain ⟨x, cs⟩ := x
  apply BitVec.eq_of_getLsbD_eq
  intro i hi
  rw [BitVec.getLsbD_rotateRight, carryBelow, carryBelow]
  simp only [BitVec.getLsbD_append]
  rcases i with _ | i
  · simp [rotateRight]
  · rw [Nat.add_sub_cancel, getLsbD_rotateRight_one _ _ (by omega)]
    grind

theorem getLsbD_rotateLeft_of_lt {n : Nat} (v : BitVec n) {w i : Nat} (hw : w < n) (hi : i < n) :
    (v.rotateLeft w).getLsbD i = v.getLsbD ((i + (n - w)) % n) := by
  rw [BitVec.getLsbD_rotateLeft, Nat.mod_eq_of_lt hw]
  by_cases h : i < w
  · rw [Nat.mod_eq_of_lt (by omega)]
    simp [h, Nat.add_comm]
  · have hadd : i + (n - w) = i - w + n := by omega
    rw [hadd, Nat.add_mod_right, Nat.mod_eq_of_lt (by omega)]
    simp [h, hi]

theorem getLsbD_rotateRight_of_lt {n : Nat} (v : BitVec n) {w i : Nat} (hw : w < n) (hi : i < n) :
    (v.rotateRight w).getLsbD i = v.getLsbD ((i + w) % n) := by
  rw [BitVec.getLsbD_rotateRight, Nat.mod_eq_of_lt hw]
  by_cases h : i < n - w
  · rw [Nat.mod_eq_of_lt (by omega)]
    simp [h, Nat.add_comm]
  · have hadd : i + w = i - (n - w) + n := by omega
    rw [hadd, Nat.add_mod_right, Nat.mod_eq_of_lt (by omega)]
    simp [h, hi]

theorem rotateLeft_one_rotateLeft {n : Nat} (v : BitVec n) {w : Nat} (h : w + 1 < n) :
    (v.rotateLeft 1).rotateLeft w = v.rotateLeft (w + 1) := by
  apply BitVec.eq_of_getLsbD_eq
  intro i hi
  have hmod : (i + (n - w)) % n < n := Nat.mod_lt _ (by omega)
  have hadd : i + (n - w) + (n - 1) = i + (n - (w + 1)) + n := by omega
  rw [getLsbD_rotateLeft_of_lt _ (by omega) hi, getLsbD_rotateLeft_of_lt _ (by omega) hmod,
    getLsbD_rotateLeft_of_lt _ h hi, Nat.mod_add_mod, hadd, Nat.add_mod_right]

theorem rotateRight_one_rotateRight {n : Nat} (v : BitVec n) {w : Nat} (h : w + 1 < n) :
    (v.rotateRight 1).rotateRight w = v.rotateRight (w + 1) := by
  apply BitVec.eq_of_getLsbD_eq
  intro i hi
  have hmod : (i + w) % n < n := Nat.mod_lt _ (by omega)
  rw [getLsbD_rotateRight_of_lt _ (by omega) hi, getLsbD_rotateRight_of_lt _ (by omega) hmod,
    getLsbD_rotateRight_of_lt _ h hi, Nat.mod_add_mod, Nat.add_assoc]

/-- SLLC by `w` places turns the ring by `w` places. -/
theorem carryAbove_rotateLeft : ∀ {w : Nat} (x : Byte × Bool), w < 9 →
    carryAbove (rotateLeft w x) = (carryAbove x).rotateLeft w
  | 0, x, h => by
    apply BitVec.eq_of_getLsbD_eq
    intro i hi
    rw [getLsbD_rotateLeft_of_lt _ h hi, Nat.sub_zero, Nat.add_mod_right, Nat.mod_eq_of_lt hi]
    rfl
  | w + 1, x, h => by
    have ih := carryAbove_rotateLeft (w := w) (rotateLeft 1 x) (by omega)
    rw [carryAbove_rotateLeft_one, rotateLeft_one_rotateLeft _ h] at ih
    exact ih

/-- SRLC by `w` places turns the ring by `w` places the other way. -/
theorem carryBelow_rotateRight : ∀ {w : Nat} (x : Byte × Bool), w < 9 →
    carryBelow (rotateRight w x) = (carryBelow x).rotateRight w
  | 0, x, h => by
    apply BitVec.eq_of_getLsbD_eq
    intro i hi
    rw [getLsbD_rotateRight_of_lt _ h hi, Nat.add_zero, Nat.mod_eq_of_lt hi]
    rfl
  | w + 1, x, h => by
    have ih := carryBelow_rotateRight (w := w) (rotateRight 1 x) (by omega)
    rw [carryBelow_rotateRight_one, rotateRight_one_rotateRight _ h] at ih
    exact ih

/-- SLLC in closed form: the ring as one 9-bit number. -/
theorem rotateLeft_eq (x : Byte) (cs : Bool) {w : Nat} (h : w < 8) :
    rotateLeft w (x, cs) = (BitVec.ofNat 8 (rotatedLeft x cs w % 256), (rotatedLeft x cs w).testBit 8) := by
  apply eq_of_carryAbove
  have hw : w % 9 = w := Nat.mod_eq_of_lt (by omega)
  have hlt : (cs.toNat * 256 + x.toNat) >>> (9 - w) < 2 ^ 9 := by
    rw [← carryAbove_toNat]
    exact (Nat.shiftRight_le _ _).trans_lt (carryAbove (x, cs)).isLt
  rw [carryAbove_rotateLeft _ (by omega), BitVec.toNat_rotateLeft, hw, carryAbove_toNat]
  rw [rotatedLeft, show 512 = 2 ^ 9 from rfl, Nat.or_mod_two_pow, Nat.mod_eq_of_lt hlt]

/-- SRLC in closed form: the ring as one 9-bit number. -/
theorem rotateRight_eq (x : Byte) (cs : Bool) {w : Nat} (h : w < 8) :
    rotateRight w (x, cs) = (BitVec.ofNat 8 (rotatedRight x cs w / 2), (rotatedRight x cs w).testBit 0) := by
  apply eq_of_carryBelow
  have hw : w % 9 = w := Nat.mod_eq_of_lt (by omega)
  have hlt : (x.toNat * 2 + cs.toNat) >>> w < 2 ^ 9 := by
    rw [← carryBelow_toNat]
    exact (Nat.shiftRight_le _ _).trans_lt (carryBelow (x, cs)).isLt
  rw [carryBelow_rotateRight _ (by omega), BitVec.toNat_rotateRight, hw, carryBelow_toNat]
  rw [rotatedRight, show 512 = 2 ^ 9 from rfl, Nat.or_mod_two_pow, Nat.mod_eq_of_lt hlt]

/-! ## The shared effect (41_shift.md R170) -/

section
variable (n : RegNum) {w : BitVec 3} (x : Byte × Bool) (s : State)

theorem shiftR_zero : shiftR n 0 x s = s := if_pos rfl

/-- A count other than 0 writes PSW with C, then CS, then the register. -/
theorem shiftR_ne_zero (h : w ≠ 0) :
    shiftR n w x s = ((s.setPsw (pswCarry s.psw x.2)).setCs x.2).setR n x.1 := by
  rw [shiftR, if_neg h, State.setC, withC_eq]
  rfl

theorem shiftR_ne_zero_r (h : w ≠ 0) (i : RegNum) : (shiftR n w x s).r i = if n = i then x.1 else s.r i := by
  rw [shiftR_ne_zero n x s h, State.setR_r, State.setCs_r, State.setPsw_r]

theorem shiftR_ne_zero_cs (h : w ≠ 0) : (shiftR n w x s).cs = x.2 := by
  rw [shiftR_ne_zero n x s h, State.setR_cs, State.setCs_cs]

theorem shiftR_ne_zero_psw (h : w ≠ 0) : (shiftR n w x s).psw = pswCarry s.psw x.2 := by
  rw [shiftR_ne_zero n x s h, State.setR_psw, State.setCs_psw, State.setPsw_psw]

theorem shiftR_ne_zero_c (h : w ≠ 0) : (shiftR n w x s).c = x.2 := by
  rw [State.c, shiftR_ne_zero_psw n x s h, pswCarry, pswC_packPsw]

end

/-! ## Two byte shifts on the halves of a pair (41_shift.md R181) -/

section
variable (high low : Byte)

/-- The bit that leaves the low byte enters the high byte. -/
theorem append_shiftLeft_one :
    (rotateLeft 1 (high, (shiftLeft low 1).2)).1 ++ (shiftLeft low 1).1 = (high ++ low) <<< 1 := by
  apply BitVec.eq_of_getLsbD_eq
  intro i hi
  simp only [shiftLeft, BitVec.getLsbD_append, BitVec.getLsbD_shiftLeft]
  by_cases h : i < 8
  · grind
  · rw [getLsbD_rotateLeft_one _ _ (by omega)]
    grind

/-- The bit that leaves the high byte enters the low byte. -/
theorem append_shiftRight_one :
    (shiftRight high 1).1 ++ (rotateRight 1 (low, (shiftRight high 1).2)).1 = (high ++ low) >>> 1 := by
  apply BitVec.eq_of_getLsbD_eq
  intro i hi
  simp only [shiftRight, BitVec.getLsbD_append, BitVec.getLsbD_ushiftRight]
  by_cases h : i < 8
  · rw [getLsbD_rotateRight_one _ _ h]
    grind
  · grind

/-- The same with the sign kept at the top of the pair. -/
theorem append_shiftRightArith_one :
    (shiftRightArith high 1).1 ++ (rotateRight 1 (low, (shiftRightArith high 1).2)).1 = (high ++ low).sshiftRight 1 := by
  apply BitVec.eq_of_getLsbD_eq
  intro i hi
  simp only [shiftRightArith, BitVec.getLsbD_append, BitVec.getLsbD_sshiftRight, BitVec.msb_append]
  by_cases h : i < 8
  · rw [getLsbD_rotateRight_one _ _ h]
    grind
  · grind

theorem msb_append_byte : (high ++ low).msb = high.getLsbD 7 := by
  rw [BitVec.msb_append, BitVec.msb_eq_getLsbD_last]
  rfl

theorem getLsbD_zero_append_byte : (high ++ low).getLsbD 0 = low.getLsbD 0 := by
  rw [BitVec.getLsbD_append, if_pos (by decide)]

end

/-! ## One place in exact numbers -/

theorem shiftLeft_one_eq_ofNat {n : Nat} (v : BitVec n) : v <<< 1 = BitVec.ofNat n (2 * v.toNat) := by
  apply BitVec.eq_of_toNat_eq
  rw [BitVec.toNat_shiftLeft, BitVec.toNat_ofNat, Nat.shiftLeft_eq, Nat.mul_comm, pow_one]

theorem ushiftRight_one_eq_ofNat {n : Nat} (v : BitVec n) : v >>> 1 = BitVec.ofNat n (v.toNat / 2) := by
  apply BitVec.eq_of_toNat_eq
  have hlt : v.toNat / 2 < 2 ^ n := (Nat.div_le_self _ _).trans_lt v.isLt
  rw [BitVec.toNat_ushiftRight, BitVec.toNat_ofNat, Nat.mod_eq_of_lt hlt, Nat.shiftRight_eq_div_pow, pow_one]

theorem sshiftRight_one_eq_ofInt {n : Nat} (v : BitVec n) : v.sshiftRight 1 = BitVec.ofInt n (v.toInt / 2) := by
  rw [BitVec.sshiftRight, Int.shiftRight_eq_div_pow]
  rfl

end Sys2Proof.Machine

namespace Sys2Proof

open Machine

/-- The three bits under a 0 are the count. -/
theorem words_width (x n : BitVec 4) (w : BitVec 3) (y : BitVec 4) :
    [mkWord x n (0#1 ++ w) y] = [(x ++ n ++ 0#1 ++ w ++ y : Word)] := by
  rw [mkWord, BitVec.append_assoc (x₁ := x ++ n) (x₂ := 0#1)]
  rfl

/-- A form is settled by its word and by what its shifter gives for counts below 8. -/
theorem shiftsBy_of_exec {ws : List Word} {i : Instr} {n : RegNum} {count : State → BitVec 3}
    (shifter : Byte → Bool → Nat → Byte × Bool) {value : Byte → Bool → Nat → Nat}
    {out : Byte → Bool → Nat → Bool}
    (hwf : i.wellFormed = true) (hwords : encode i = ws)
    (hexec : ∀ s, exec i s = .next (shiftR n (count s) (shifter (s.r n) s.cs (count s).toNat) s))
    (hshifter : ∀ x cs w, w < 8 → shifter x cs w = (BitVec.ofNat 8 (value x cs w), out x cs w)) :
    ShiftsBy ws i n count value out := by
  refine ⟨decodesAs_of_encode hwf hwords, fun s _ => ⟨_, hexec s, ?_⟩⟩
  rw [hshifter _ _ _ (count s).isLt]
  dsimp only
  generalize BitVec.ofNat 8 (value (s.r n) s.cs (count s).toNat) = v, out (s.r n) s.cs (count s).toNat = b
  split
  · next h0 =>
    have hzero : count s = 0 := BitVec.eq_of_toNat_eq h0
    rw [hzero, shiftR_zero]
  · next h0 =>
    have hne : count s ≠ 0 := fun h => h0 (congrArg BitVec.toNat h)
    refine ⟨fun x => ?_, shiftR_ne_zero_cs n _ s hne, shiftR_ne_zero_psw n _ s hne, ?_⟩
    · rw [shiftR_ne_zero_r n _ s hne]
      exact if_congr eq_comm rfl rfl
    · rw [shiftR_ne_zero_psw n _ s hne, shiftR_ne_zero n _ s hne]
      rfl

/-- Settles O19: each form is the shared effect of a shift, its shifter read in exact numbers. -/
theorem shiftsByCount : Obligations.ShiftsByCount :=
  ⟨fun _ _ => shiftsBy_of_exec (fun x _ => shiftLeft x) rfl rfl (fun _ => rfl)
      fun x _ w _ => shiftLeft_eq x w,
    fun _ _ => shiftsBy_of_exec (fun x _ => shiftLeft x) rfl (words_width ..) (fun _ => rfl)
      fun x _ w _ => shiftLeft_eq x w,
    fun _ _ => shiftsBy_of_exec (fun x _ => shiftRight x) rfl rfl (fun _ => rfl)
      fun x _ w _ => shiftRight_eq x w,
    fun _ _ => shiftsBy_of_exec (fun x _ => shiftRight x) rfl (words_width ..) (fun _ => rfl)
      fun x _ w _ => shiftRight_eq x w,
    fun _ _ => shiftsBy_of_exec (fun x _ => shiftRightArith x) rfl rfl (fun _ => rfl)
      fun x _ w _ => shiftRightArith_eq x w,
    fun _ _ => shiftsBy_of_exec (fun x _ => shiftRightArith x) rfl (words_width ..) (fun _ => rfl)
      fun x _ w _ => shiftRightArith_eq x w⟩

/-- Settles O20: `w` single places are one rotation of the ring, whose closed form takes no C. -/
theorem rotatesThroughCS : Obligations.RotatesThroughCS :=
  ⟨fun _ _ => shiftsBy_of_exec (fun x cs w => rotateLeft w (x, cs)) rfl rfl (fun _ => rfl)
      fun x cs _ => rotateLeft_eq x cs,
    fun _ _ => shiftsBy_of_exec (fun x cs w => rotateLeft w (x, cs)) rfl (words_width ..) (fun _ => rfl)
      fun x cs _ => rotateLeft_eq x cs,
    fun _ _ => shiftsBy_of_exec (fun x cs w => rotateRight w (x, cs)) rfl rfl (fun _ => rfl)
      fun x cs _ => rotateRight_eq x cs,
    fun _ _ => shiftsBy_of_exec (fun x cs w => rotateRight w (x, cs)) rfl (words_width ..) (fun _ => rfl)
      fun x cs _ => rotateRight_eq x cs⟩

theorem regNum_succ_ne (n : RegNum) : n + 1 ≠ n := by bv_omega

/-- Two shifts by one place, the second on another register and taking its bit from the first through CS. -/
theorem execTwo_shiftR {i j : Instr} {a b : RegNum} {x : State → Byte × Bool} {y : Byte × Bool → Byte × Bool}
    (hi : ∀ s, exec i s = .next (shiftR a 1 (x s) s)) (hj : ∀ s, exec j s = .next (shiftR b 1 (y (s.r b, s.cs)) s))
    (hne : a ≠ b) (s : State) :
    ∃ t, execTwo i j s = .next t ∧ t.r a = (x s).1 ∧ t.r b = (y (s.r b, (x s).2)).1 ∧
      t.c = (y (s.r b, (x s).2)).2 ∧ t.cs = (y (s.r b, (x s).2)).2 := by
  have h1 : (1 : BitVec 3) ≠ 0 := by decide
  have hr : (shiftR a 1 (x s) s).r b = s.r b := by rw [shiftR_ne_zero_r _ _ _ h1, if_neg hne]
  have hcs : (shiftR a 1 (x s) s).cs = (x s).2 := shiftR_ne_zero_cs _ _ _ h1
  refine ⟨shiftR b 1 (y (s.r b, (x s).2)) (shiftR a 1 (x s) s), ?_, ?_, ?_, ?_, ?_⟩
  · rw [execTwo, hi]
    exact (hj _).trans (by rw [hr, hcs])
  · rw [shiftR_ne_zero_r _ _ _ h1, if_neg hne.symm, shiftR_ne_zero_r _ _ _ h1, if_pos rfl]
  · rw [shiftR_ne_zero_r _ _ _ h1, if_pos rfl]
  · exact shiftR_ne_zero_c _ _ _ h1
  · exact shiftR_ne_zero_cs _ _ _ h1

/-- A right shift of the high byte, then SRLC of the low byte: the bit that leaves the pair is bit 0. -/
theorem execTwo_srlcRnWidth {i : Instr} {n : RegNum} (shifter : Byte → Byte × Bool)
    (hi : ∀ s, exec i s = .next (shiftR (n + 1) 1 (shifter (s.r (n + 1))) s)) (s : State) :
    ∃ t, execTwo i (.srlcRnWidth n 1) s = .next t ∧
      t.er n = (shifter (s.r (n + 1))).1 ++ (rotateRight 1 (s.r n, (shifter (s.r (n + 1))).2)).1 ∧
      t.c = (s.er n).getLsbD 0 ∧ t.cs = (s.er n).getLsbD 0 := by
  obtain ⟨t, ht, hhigh, hlow, hc, hcs⟩ := execTwo_shiftR (j := .srlcRnWidth n 1) (x := fun s => shifter (s.r (n + 1)))
    (y := rotateRight 1) hi (fun _ => rfl) (regNum_succ_ne n) s
  rw [s.er_eq, getLsbD_zero_append_byte]
  exact ⟨t, ht, by rw [t.er_eq, hhigh, hlow], hc, hcs⟩

/-- Settles O21: the first shift leaves in CS the bit that the second takes in, so the two bytes shift as one word. -/
theorem pairShiftIdiom : Obligations.PairShiftIdiom := by
  intro n s _
  refine ⟨?_, ?_, ?_⟩
  · obtain ⟨t, ht, hlow, hhigh, hc, hcs⟩ := execTwo_shiftR (i := .sllRnWidth n 1) (j := .sllcRnWidth (n + 1) 1)
      (x := fun s => shiftLeft (s.r n) 1) (y := rotateLeft 1) (fun _ => rfl) (fun _ => rfl) (regNum_succ_ne n).symm s
    rw [← shiftLeft_one_eq_ofNat, s.er_eq, msb_append_byte, ← append_shiftLeft_one]
    exact ⟨t, ht, by rw [t.er_eq, hhigh, hlow], hc, hcs⟩
  · rw [← ushiftRight_one_eq_ofNat, s.er_eq, ← append_shiftRight_one, ← s.er_eq]
    exact execTwo_srlcRnWidth (fun x => shiftRight x 1) (fun _ => rfl) s
  · rw [← sshiftRight_one_eq_ofInt, s.er_eq, ← append_shiftRightArith_one, ← s.er_eq]
    exact execTwo_srlcRnWidth (fun x => shiftRightArith x 1) (fun _ => rfl) s

end Sys2Proof

/-! # 42_load_store.md: the addressing modes, the loads and the stores -/

namespace Sys2Proof.Machine

/-! ## Offsets and the post-increment (42_load_store.md R186, R187) -/

/-- A sign-extended displacement adds its signed number, modulo 2^16. -/
theorem toNat_add_sext6 (x : Word) (d : BitVec 6) : ((x + sext6 d).toNat : Int) = (x.toNat + d.toInt) % 2 ^ 16 := by
  have hsum : x + sext6 d = BitVec.ofInt 16 (x.toNat + d.toInt) := by
    rw [BitVec.ofInt_add, BitVec.ofInt_natCast, BitVec.ofNat_toNat, BitVec.setWidth_eq]
    rfl
  rw [hsum, toNat_ofInt_cast]

/-- Clearing bit 0 rounds down to an even number. -/
theorem toNat_mask_even (v : Word) : (v &&& 0xFFFE).toNat = v.toNat / 2 * 2 := by
  have hshift : v &&& (0xFFFE : Word) = (v >>> 1) <<< 1 := by
    rw [BitVec.shiftLeft_ushiftRight]
    rfl
  have hlt := v.isLt
  rw [hshift, BitVec.toNat_shiftLeft, BitVec.toNat_ushiftRight, Nat.shiftLeft_eq, Nat.shiftRight_eq_div_pow]
  omega

theorem bump_one (ea : Word) : bump 1 ea = ea + 1 := if_pos rfl

/-- Above one byte the bumped EA is rounded down to an even number. -/
theorem bump_toNat {k : Nat} (hk : k ≠ 1) (ea : Word) : (bump k ea).toNat = (ea.toNat + k) % 2 ^ 16 / 2 * 2 := by
  rw [bump, if_neg hk, toNat_mask_even, BitVec.toNat_add, BitVec.toNat_ofNat, Nat.add_mod_mod]

/-- For an even width the parity of EA decides whether bit 0 has to be cleared. -/
theorem bump_even_width {k : Nat} (hk : k % 2 = 0) (ea : Word) :
    (ea.getLsbD 0 = false → bump k ea = ea + BitVec.ofNat 16 k) ∧
      (ea.getLsbD 0 = true → bump k ea = ea + BitVec.ofNat 16 k - 1) := by
  have hbump := bump_toNat (k := k) (by omega) ea
  have hbit : ea.getLsbD 0 = decide (ea.toNat % 2 = 1) := Nat.testBit_zero _
  rw [hbit]
  constructor
  · intro heven
    have hmod : ¬ ea.toNat % 2 = 1 := of_decide_eq_false heven
    apply BitVec.eq_of_toNat_eq
    rw [hbump, BitVec.toNat_add, BitVec.toNat_ofNat]
    omega
  · intro hodd
    have hmod : ea.toNat % 2 = 1 := of_decide_eq_true hodd
    have h1 : (1 : Word).toNat = 1 := rfl
    apply BitVec.eq_of_toNat_eq
    rw [hbump, BitVec.toNat_sub, BitVec.toNat_add, BitVec.toNat_ofNat, h1]
    omega

/-! ## What a completed load and a completed store leave (42_load_store.md R185, R188) -/

/-- The part of an addressing mode that writes EA: `f` gives EA the value `ea`, which depends on EA alone. -/
structure ChangesEa (f : State → State) (ea : State → Word) : Prop where
  eq : ∀ s, f s = s.setEa (ea s)
  congr : ∀ s t : State, s.ea = t.ea → ea s = ea t

theorem changesEa_keepEA : ChangesEa keepEA State.ea := ⟨fun _ => rfl, fun _ _ h => h⟩

theorem changesEa_bumpEA (k : Nat) : ChangesEa (bumpEA k) fun s => bump k s.ea :=
  ⟨fun _ => rfl, fun _ _ h => congrArg (bump k) h⟩

section
variable {k : Nat} {n : RegNum} {off : Word} {f : State → State} {ea : State → Word} {s : State}

theorem load_completes {v : BitVec (8 * (k + 1))} (hea : ChangesEa f ea) (h : dataRead s.mem s.seg (k + 1) off = .ok v) :
    load (k + 1) n off f s =
      .next (((s.setPsw (pswOfValue s.psw v)).setEa (ea s)).setGroup (k + 1) n v) := by
  have hzs : s.setZS v = s.setPsw (pswOfValue s.psw v) := congrArg s.setPsw (withZS_eq_pswOfValue (w := 8 * k + 7) s.psw v)
  rw [load_eq h, hea.eq, hea.congr (s.setZS v) s rfl, hzs]

theorem store_completes (hk : k ≤ 0x10000) (hea : ChangesEa f ea) (h : segmentAnswers s.seg) (hw : Memory.wf s.mem = true) :
    ∃ m, StoredAt s.mem s.seg off k (s.group k n) m ∧ store k n off f s = .next ((s.setMem m).setEa (ea s)) := by
  obtain ⟨m, hm⟩ := dataWrite_ok h k s.mem off (s.group k n)
  refine ⟨m, (dataWrite_stored hk hm).storedAt hw h, ?_⟩
  rw [store_eq hm, hea.eq, hea.congr (s.setMem m) s rfl]

end

end Sys2Proof.Machine

namespace Sys2Proof

open Machine

/-! ## From the shared operation to what a form does -/

section
variable {ws : List Word} {i : Instr} {k : Nat} {n : RegNum} {off ea : State → Word} {f : State → State}

theorem loads_of_exec (hk : k + 1 ≤ 16) (hea : ChangesEa f ea) (hwf : i.wellFormed = true) (hwords : encode i = ws)
    (hexec : ∀ s, exec i s = load (k + 1) n (off s) f s) : Loads ws i (k + 1) n off ea := by
  refine ⟨decodesAs_of_encode hwf hwords, fun s hseg => ?_⟩
  obtain ⟨v, hv⟩ := dataRead_ok s.mem hseg (k + 1) (off s)
  obtain ⟨hinside, houtside⟩ := ((s.setPsw (pswOfValue s.psw v)).setEa (ea s)).setGroup_written hk n v
  refine ⟨_, (hexec s).trans (load_completes hea hv), v, hv, ⟨hinside, houtside⟩, ?_, State.setGroup_ea .., ?_⟩
  · rw [State.setGroup_psw, State.setEa_psw, State.setPsw_psw]
  · rw [State.setGroup_psw, State.setEa_psw, State.setPsw_psw, State.setGroup_ea]
    exact State.setGroup_eq ..

theorem stores_of_exec (hk : k ≤ 0x10000) (hea : ChangesEa f ea) (hwf : i.wellFormed = true) (hwords : encode i = ws)
    (hexec : ∀ s, exec i s = store k n (off s) f s) : Stores ws i k n off ea := by
  refine ⟨decodesAs_of_encode hwf hwords, fun s ⟨hseg, hw⟩ => ?_⟩
  obtain ⟨m, hstored, hnext⟩ := store_completes (n := n) (off := off s) hk hea hseg hw
  exact ⟨_, (hexec s).trans hnext, hstored, rfl, rfl⟩

end

/-- The low six bits of the word are the displacement, under the two bits that select the form (30_encoding.md R98). -/
theorem words_disp6 (x n : BitVec 4) (t : BitVec 2) (d : BitVec 6) :
    [mkWord x n (t ++ d.extractLsb' 4 2) (d.extractLsb' 0 4)] = [(x ++ n ++ t ++ d : Word)] := by
  have hlow : (t ++ d.extractLsb' 4 2) ++ d.extractLsb' 0 4 = t ++ d := by
    revert t d; decide
  rw [mkWord, BitVec.append_assoc (x₁ := x ++ n), hlow, BitVec.append_assoc (x₁ := x ++ n)]

theorem isER_both {n m : RegNum} (hn : isER n = true) (hm : isER m = true) : (isER n && isER m) = true :=
  Bool.and_eq_true_iff.2 ⟨hn, hm⟩

/-! ## The statements -/

/-- Settles O11: the displacements add as signed numbers, and the parity of EA decides what the bump clears. -/
theorem addressingModes : Obligations.AddressingModes := by
  refine ⟨fun s m d => ⟨rfl, rfl, rfl, BitVec.toNat_add (s.er m) d⟩, fun s d => ?_, bump_one, fun ea k hk => ?_⟩
  · have hlow : -32 ≤ d.toInt := d.le_toInt
    have hhigh : d.toInt < 32 := d.toInt_lt
    exact ⟨hlow, by omega, toNat_add_sext6 (s.er 12) d, toNat_add_sext6 (s.er 14) d⟩
  · exact ⟨bump_toNat (by omega) ea, bump_even_width (by omega) ea⟩

/-- Settles O22: each form is the shared load, with EA kept or bumped. -/
theorem loadsIndirect : Obligations.LoadsIndirect :=
  ⟨fun _ hn => loads_of_exec (by decide) changesEa_keepEA hn rfl fun _ => rfl,
    fun _ hn => loads_of_exec (by decide) (changesEa_bumpEA 2) hn rfl fun _ => rfl,
    fun _ _ hn hm => loads_of_exec (by decide) changesEa_keepEA (isER_both hn hm) rfl fun _ => rfl,
    fun _ => loads_of_exec (by decide) changesEa_keepEA rfl rfl fun _ => rfl,
    fun _ => loads_of_exec (by decide) (changesEa_bumpEA 1) rfl rfl fun _ => rfl,
    fun _ _ hm => loads_of_exec (by decide) changesEa_keepEA hm rfl fun _ => rfl,
    fun _ hn => loads_of_exec (by decide) changesEa_keepEA hn rfl fun _ => rfl,
    fun _ hn => loads_of_exec (by decide) (changesEa_bumpEA 4) hn rfl fun _ => rfl,
    fun _ hn => loads_of_exec (by decide) changesEa_keepEA hn rfl fun _ => rfl,
    fun _ hn => loads_of_exec (by decide) (changesEa_bumpEA 8) hn rfl fun _ => rfl⟩

/-- Settles O23: each form is the shared load, with EA kept. -/
theorem loadsDisplaced : Obligations.LoadsDisplaced :=
  ⟨fun _ _ _ hn hm => loads_of_exec (by decide) changesEa_keepEA (isER_both hn hm) rfl fun _ => rfl,
    fun _ _ hn => loads_of_exec (by decide) changesEa_keepEA hn (words_disp6 ..) fun _ => rfl,
    fun _ _ hn => loads_of_exec (by decide) changesEa_keepEA hn (words_disp6 ..) fun _ => rfl,
    fun _ _ hn => loads_of_exec (by decide) changesEa_keepEA hn rfl fun _ => rfl,
    fun _ _ _ hm => loads_of_exec (by decide) changesEa_keepEA hm rfl fun _ => rfl,
    fun _ _ => loads_of_exec (by decide) changesEa_keepEA rfl (words_disp6 ..) fun _ => rfl,
    fun _ _ => loads_of_exec (by decide) changesEa_keepEA rfl (words_disp6 ..) fun _ => rfl,
    fun _ _ => loads_of_exec (by decide) changesEa_keepEA rfl rfl fun _ => rfl⟩

/-- Settles O24: each form is the shared store, with EA kept or bumped. -/
theorem storesIndirect : Obligations.StoresIndirect :=
  ⟨fun _ hn => stores_of_exec (by decide) changesEa_keepEA hn rfl fun _ => rfl,
    fun _ hn => stores_of_exec (by decide) (changesEa_bumpEA 2) hn rfl fun _ => rfl,
    fun _ _ hn hm => stores_of_exec (by decide) changesEa_keepEA (isER_both hn hm) rfl fun _ => rfl,
    fun _ => stores_of_exec (by decide) changesEa_keepEA rfl rfl fun _ => rfl,
    fun _ => stores_of_exec (by decide) (changesEa_bumpEA 1) rfl rfl fun _ => rfl,
    fun _ _ hm => stores_of_exec (by decide) changesEa_keepEA hm rfl fun _ => rfl,
    fun _ hn => stores_of_exec (by decide) changesEa_keepEA hn rfl fun _ => rfl,
    fun _ hn => stores_of_exec (by decide) (changesEa_bumpEA 4) hn rfl fun _ => rfl,
    fun _ hn => stores_of_exec (by decide) changesEa_keepEA hn rfl fun _ => rfl,
    fun _ hn => stores_of_exec (by decide) (changesEa_bumpEA 8) hn rfl fun _ => rfl⟩

/-- Settles O25: each form is the shared store, with EA kept. -/
theorem storesDisplaced : Obligations.StoresDisplaced :=
  ⟨fun _ _ _ hn hm => stores_of_exec (by decide) changesEa_keepEA (isER_both hn hm) rfl fun _ => rfl,
    fun _ _ hn => stores_of_exec (by decide) changesEa_keepEA hn (words_disp6 ..) fun _ => rfl,
    fun _ _ hn => stores_of_exec (by decide) changesEa_keepEA hn (words_disp6 ..) fun _ => rfl,
    fun _ _ hn => stores_of_exec (by decide) changesEa_keepEA hn rfl fun _ => rfl,
    fun _ _ _ hm => stores_of_exec (by decide) changesEa_keepEA hm rfl fun _ => rfl,
    fun _ _ => stores_of_exec (by decide) changesEa_keepEA rfl (words_disp6 ..) fun _ => rfl,
    fun _ _ => stores_of_exec (by decide) changesEa_keepEA rfl (words_disp6 ..) fun _ => rfl,
    fun _ _ => stores_of_exec (by decide) changesEa_keepEA rfl rfl fun _ => rfl⟩

end Sys2Proof

/-! # 43_stack.md: the register groups pushed and popped, their round trip, and the register lists -/

namespace Sys2Proof.Machine

/-! ## A register group written back unchanged (10_state.md R22) -/

theorem State.setR_self (s : State) (n : RegNum) : s.setR n (s.r n) = s := by
  simp [State.setR, State.r]

theorem State.setGroup_group_self : ∀ (k : Nat) (s : State) (n : RegNum), s.setGroup k n (s.group k n) = s
  | 0, _, _ => rfl
  | k + 1, s, n => by
    have hlow : (s.group (k + 1) n).extractLsb' 0 8 = s.r n := by
      simpa using s.group_byte (k + 1) n 0 (by omega)
    have hhigh : (s.group (k + 1) n).extractLsb' 8 (8 * k) = s.group k (n + 1) := by
      apply BitVec.eq_of_getLsbD_eq
      intro i hi
      simp [State.group, BitVec.getLsbD_append, hi]
    rw [State.setGroup, hlow, State.setR_self, hhigh]
    exact setGroup_group_self k s (n + 1)

/-! ## PUSH of a group, then POP of a group of the same size (43_stack.md R241) -/

/-- SP is back where it was, and the group popped holds what the group pushed held. -/
theorem execTwo_pushGroup_popGroup {i j : Instr} {k : Nat} {n m : RegNum} (hk : k ≤ 16)
    (hpush : ∀ s, exec i s = finish (pushGroup k n s)) (hpop : ∀ s, exec j s = finish (popGroup k m s)) {s : State}
    (hw : Memory.wf s.mem = true) :
    ∃ mem, Stored s.mem 0 (s.sp - stackBytes k) k (s.group k n) mem ∧
      execTwo i j s = .next ((s.setMem mem).setGroup k m (s.group k n)) := by
  obtain ⟨mem, hpushed, hstored⟩ := pushGroup_spec hk n s
  obtain ⟨v, hread, hpopped⟩ := popGroup_spec k m ((s.setSp (s.sp - stackBytes k)).setMem mem)
  have hv : v = s.group k n :=
    Except.ok.inj (hread.symm.trans (dataRead_stored segmentAnswers_zero hw hstored))
  have hsp : ((s.setSp (s.sp - stackBytes k)).setMem mem).setSp (s.sp - stackBytes k + stackBytes k) = s.setMem mem := by
    rw [BitVec.sub_add_cancel]
    rfl
  refine ⟨mem, hstored, ?_⟩
  simp only [execTwo, hpush, hpushed, finish, hpop, hpopped, hv, State.setMem_sp, State.setSp_sp, hsp]

section
variable {i j : Instr} {k : Nat} {n m : RegNum} {s : State}

/-- The group popped is the one pushed: only the pushed bytes of memory may differ. -/
theorem execTwo_pushGroup_popGroup_self (hk : k ≤ 16) (hpush : ∀ s, exec i s = finish (pushGroup k n s))
    (hpop : ∀ s, exec j s = finish (popGroup k n s)) (hw : Memory.wf s.mem = true) :
    ∃ t, execTwo i j s = .next t ∧ t = { s with mem := t.mem } ∧
      ∀ a, ¬ holdsByteOf 0 (s.sp - stackBytes k) k a → Memory.read t.mem a = Memory.read s.mem a := by
  obtain ⟨mem, hstored, hnext⟩ := execTwo_pushGroup_popGroup hk hpush hpop hw
  rw [← State.setMem_group s mem, State.setGroup_group_self] at hnext
  exact ⟨_, hnext, rfl, hstored.outside⟩

/-- Another group popped receives the value of the one pushed. -/
theorem execTwo_pushGroup_popGroup_copies (hk : k ≤ 16) (hpush : ∀ s, exec i s = finish (pushGroup k n s))
    (hpop : ∀ s, exec j s = finish (popGroup k m s)) (hw : Memory.wf s.mem = true) :
    ∃ t, execTwo i j s = .next t ∧ GroupWritten k m (s.group k n) s t := by
  obtain ⟨mem, -, hnext⟩ := execTwo_pushGroup_popGroup hk hpush hpop hw
  obtain ⟨hinside, houtside⟩ := (s.setMem mem).setGroup_written hk m (s.group k n)
  exact ⟨_, hnext, hinside, houtside⟩

/-- A group of one register is the register. -/
theorem byteWritten_of_groupWritten {v : Byte} {t : State} (h : GroupWritten 1 n v s t) : ByteWritten n v s t := by
  obtain ⟨hinside, houtside⟩ := h
  intro x
  split
  · next hx =>
    have hcell := hinside 0 Nat.one_pos
    rw [BitVec.add_zero, BitVec.extractLsb'_eq_self] at hcell
    rw [hx, hcell]
  · next hx =>
    refine houtside x ?_
    rintro ⟨j, hj, e⟩
    obtain rfl : j = 0 := by omega
    exact hx (e.trans (BitVec.add_zero n))

end

/-! ## Words pushed one below the other (43_stack.md R230, R235) -/

/-- The words pushed in turn. -/
def pushWords (vs : List Word) (s : State) : Except Refusal State := vs.foldlM (fun t v => push16 v t) s

theorem pushWords_cons (v : Word) (vs : List Word) (s : State) :
    pushWords (v :: vs) s = push16 v s >>= pushWords vs := rfl

theorem pushWords_append (vs ws : List Word) (s : State) :
    pushWords (vs ++ ws) s = pushWords vs s >>= pushWords ws := List.foldlM_append

theorem pushWords_ite (b : Bool) (vs : List Word) :
    pushWords (if b then vs else []) = whenSelected b (pushWords vs) := by
  cases b <;> rfl

theorem pushWords_one (v : Word) : pushWords [v] = push16 v := by
  funext s
  exact bind_pure _

theorem pushWords_two (seg : Byte) (off : Word) : pushWords [seg.zeroExtend 16, off] = pushFar seg off := by
  funext s
  rw [pushWords_cons, pushWords_one]
  rfl

/-- A PUSH list pushes its items in turn (43_stack.md R235). -/
theorem execPushList_eq (l e p a : Bool) (s : State) :
    execPushList l e p a s = finish (pushWords (pushedItems l e p a s) s) := by
  simp only [pushedItems, pushWords_append, pushWords_ite, pushWords_one, pushWords_two, bind_assoc]
  rfl

theorem holdsByteOf_zero_iff {off : Word} {k a : Nat} :
    holdsByteOf 0 off k a ↔ ∃ j < k, (off + BitVec.ofNat 16 j).toNat = a := by
  simp only [holdsByteOf, placeOf, physical_segment0, Option.some.injEq]

theorem slotWord_stored {m m' : Memory} {off v : Word} (hw : Memory.wf m = true) (h : Stored m 0 off 2 v m') :
    slotWord m' off = v :=
  Except.ok.inj ((dataRead_segment0 m' off).symm.trans (dataRead_stored segmentAnswers_zero hw h))

/-- The slot just above the bytes pushed keeps its word, as long as those do not fill the segment. -/
theorem BytesPushed.slotWord_eq {b : Nat} {s t : State} (h : BytesPushed b s t) (hb : b + 2 ≤ 0x10000) :
    slotWord t.mem s.sp = slotWord s.mem s.sp := by
  have hsp := s.sp.isLt
  have hkept : ∀ d < 2, Memory.read t.mem (s.sp + BitVec.ofNat 16 d).toNat =
      Memory.read s.mem (s.sp + BitVec.ofNat 16 d).toNat := by
    intro d hd
    refine h.outside _ fun hbyte => ?_
    obtain ⟨j, hj, e⟩ := holdsByteOf_zero_iff.1 hbyte
    simp only [BitVec.toNat_add, BitVec.toNat_sub, BitVec.toNat_ofNat] at e
    omega
  have hlow := hkept 0 (by decide)
  rw [BitVec.add_zero] at hlow
  rw [slotWord, slotWord, hlow]
  exact congrArg (· ++ _) (hkept 1 (by decide))

/-- The words have been pushed: each stands in its slot under the old SP, the first one highest. -/
structure WordsPushed (vs : List Word) (s t : State) : Prop extends BytesPushed (2 * vs.length) s t where
  canonical : Memory.wf t.mem = true
  slots : ∀ (j : Nat) (h : j < vs.length), slotWord t.mem (s.sp - BitVec.ofNat 16 (2 * (j + 1))) = vs[j]

/-- Words that fit into the segment can always be pushed. -/
theorem pushWords_spec : ∀ {vs : List Word} {s : State}, 2 * vs.length ≤ 0x10000 → Memory.wf s.mem = true →
    ∃ t, pushWords vs s = .ok t ∧ WordsPushed vs s t
  | [], s, _, hw => ⟨s, rfl, .refl s, hw, fun _ h => absurd h (Nat.not_lt_zero _)⟩
  | v :: vs, s, hlen, hw => by
    rw [List.length_cons] at hlen
    obtain ⟨m, hpush, hstored⟩ := push16_spec v s
    obtain ⟨t, hrest, hpushed⟩ := pushWords_spec (vs := vs) (s := (s.setSp (s.sp - 2)).setMem m) (by omega) (hstored.wf hw)
    have hfirst : BytesPushed 2 s ((s.setSp (s.sp - 2)).setMem m) := ⟨rfl, hstored.outside⟩
    have hbytes := hfirst.trans hpushed.toBytesPushed
    refine ⟨t, ?_, ?_, hpushed.canonical, fun j hj => ?_⟩
    · rw [pushWords_cons, hpush]
      exact hrest
    · rw [List.length_cons, Nat.mul_succ, Nat.add_comm]
      exact hbytes
    · cases j with
      | zero => exact (hpushed.slotWord_eq (by omega)).trans (slotWord_stored hw hstored)
      | succ j =>
        have hslot : s.sp - BitVec.ofNat 16 (2 * (j + 1 + 1)) = s.sp - 2 - BitVec.ofNat 16 (2 * (j + 1)) := by
          rw [Nat.mul_succ, BitVec.ofNat_add]
          bv_omega
        rw [hslot]
        exact hpushed.slots j (by simpa using hj)

/-- A PUSH list pushes at most six words. -/
theorem pushedItems_fit (l e p a : Bool) (s : State) : 2 * (pushedItems l e p a s).length ≤ 0x10000 := by
  rw [pushedItems_bytes]
  split_ifs <;> decide

/-! ## Items popped from consecutive slots (43_stack.md R240) -/

theorem State.setPsw_self (s : State) : s.setPsw s.psw = s := by
  simp [State.setPsw, State.setEpsw, State.psw, State.epswOf]

theorem State.setLink_self (s : State) : s.setLink s.lr s.lcsr = s := by
  simp [State.setLink, State.setElr, State.setEcsr, State.lr, State.lcsr, State.elrOf, State.ecsrOf]

theorem State.setPsw_setPsw (s : State) (p q : Byte) : (s.setPsw p).setPsw q = s.setPsw q := by
  simp [State.setPsw, State.setEpsw]

theorem State.setLink_setLink (s : State) (lr lr' : Word) (lcsr lcsr' : Byte) :
    (s.setLink lr lcsr).setLink lr' lcsr' = s.setLink lr' lcsr' := by
  simp [State.setLink, State.setElr, State.setEcsr]

/-- What a POP list may write, and how many slots it has popped. -/
structure Popped where
  slots : Nat
  ea : Word
  lr : Word
  lcsr : Byte
  psw : Byte
  pc : Word
  csr : Byte

/-- The state with these values written, and SP above the slots. -/
def State.withPopped (s : State) (x : Popped) : State :=
  { (s.setLink x.lr x.lcsr).setPsw x.psw with ea := x.ea, pc := x.pc, csr := x.csr, sp := s.sp + BitVec.ofNat 16 (2 * x.slots) }

/-- The word in slot `j` counted from SP upwards. -/
def State.slot (s : State) (j : Nat) : Word := slotWord s.mem (s.sp + BitVec.ofNat 16 (2 * j))

/-- Nothing popped yet. -/
def State.unpopped (s : State) : Popped := ⟨0, s.ea, s.lr, s.lcsr, s.psw, s.pc, s.csr⟩

theorem State.withPopped_unpopped (s : State) : s.withPopped s.unpopped = s := by
  simp only [State.withPopped, State.unpopped, State.setLink_self, State.setPsw_self, Nat.mul_zero, BitVec.add_zero]

section
variable (s : State) (x : Popped)

theorem State.withPopped_setLink (lr : Word) (lcsr : Byte) :
    (s.withPopped x).setLink lr lcsr = s.withPopped { x with lr := lr, lcsr := lcsr } := by
  calc (s.withPopped x).setLink lr lcsr
      = { ((s.setLink x.lr x.lcsr).setLink lr lcsr).setPsw x.psw with
          ea := x.ea, pc := x.pc, csr := x.csr, sp := (s.withPopped x).sp } := rfl
    _ = _ := by rw [State.setLink_setLink]; rfl

theorem State.withPopped_setPsw (p : Byte) : (s.withPopped x).setPsw p = s.withPopped { x with psw := p } := by
  calc (s.withPopped x).setPsw p
      = { ((s.setLink x.lr x.lcsr).setPsw x.psw).setPsw p with
          ea := x.ea, pc := x.pc, csr := x.csr, sp := (s.withPopped x).sp } := rfl
    _ = _ := by rw [State.setPsw_setPsw]; rfl

theorem State.withPopped_sp_add (j : Nat) :
    (s.withPopped x).sp + BitVec.ofNat 16 (2 * j) = s.sp + BitVec.ofNat 16 (2 * (x.slots + j)) := by
  rw [Nat.mul_add, BitVec.ofNat_add, ← BitVec.add_assoc]
  rfl

theorem State.withPopped_lr : (s.withPopped x).lr = x.lr := s.setLink_lr x.lr x.lcsr

theorem State.withPopped_lcsr : (s.withPopped x).lcsr = x.lcsr := s.setLink_lcsr x.lr x.lcsr

theorem State.withPopped_psw : (s.withPopped x).psw = x.psw := (s.setLink x.lr x.lcsr).setPsw_psw x.psw

/-- One slot popped. -/
theorem State.withPopped_setSp_one :
    (s.withPopped x).setSp ((s.withPopped x).sp + 2) = s.withPopped { x with slots := x.slots + 1 } :=
  congrArg (s.withPopped x).setSp (s.withPopped_sp_add x 1)

/-- Two slots popped. -/
theorem State.withPopped_setSp_two :
    (s.withPopped x).setSp ((s.withPopped x).sp + 2 + 2) = s.withPopped { x with slots := x.slots + 2 } := by
  rw [BitVec.add_assoc]
  exact congrArg (s.withPopped x).setSp (s.withPopped_sp_add x 2)

theorem State.withPopped_slot : slotWord (s.withPopped x).mem (s.withPopped x).sp = s.slot x.slots := rfl

theorem State.withPopped_slot_succ :
    slotWord (s.withPopped x).mem ((s.withPopped x).sp + 2) = s.slot (x.slots + 1) :=
  congrArg (slotWord s.mem) (s.withPopped_sp_add x 1)

theorem whenSelected_popEA (b : Bool) : whenSelected b popEA (s.withPopped x) = .ok (s.withPopped { x with
    slots := x.slots + if b then 1 else 0
    ea := if b then s.slot x.slots else x.ea }) := by
  cases b with
  | false => rfl
  | true =>
    refine (popEA_eq _).trans ?_
    rw [State.withPopped_setSp_one, State.withPopped_slot]
    rfl

theorem whenSelected_popLR (b : Bool) : whenSelected b popLR (s.withPopped x) = .ok (s.withPopped { x with
    slots := x.slots + if b then 2 else 0
    lr := if b then s.slot x.slots else x.lr
    lcsr := if b then (s.slot (x.slots + 1)).extractLsb' 0 8 else x.lcsr }) := by
  cases b with
  | false => rfl
  | true =>
    refine (popLR_eq _).trans ?_
    rw [State.withPopped_setSp_two, State.withPopped_slot, State.withPopped_slot_succ, State.withPopped_setLink]
    rfl

theorem whenSelected_popPSW (b : Bool) : whenSelected b popPSW (s.withPopped x) = .ok (s.withPopped { x with
    slots := x.slots + if b then 1 else 0
    psw := if b then (s.slot x.slots).extractLsb' 0 8 else x.psw }) := by
  cases b with
  | false => rfl
  | true =>
    refine (popPSW_eq _).trans ?_
    rw [State.withPopped_setSp_one, State.withPopped_slot, State.withPopped_setPsw]
    rfl

theorem whenSelected_popPC (b : Bool) : whenSelected b popPC (s.withPopped x) = .ok (s.withPopped { x with
    slots := x.slots + if b then 2 else 0
    pc := if b then s.slot x.slots &&& 0xFFFE else x.pc
    csr := if b then (s.slot (x.slots + 1)).extractLsb' 0 8 else x.csr }) := by
  cases b with
  | false => rfl
  | true =>
    refine (popPC_eq _).trans ?_
    rw [State.withPopped_setSp_two, State.withPopped_slot, State.withPopped_slot_succ]
    rfl

end

/-- What a POP list has popped at its end: each item starts at the slot where the items before it end (43_stack.md R240). -/
def poppedItems (l e p a : Bool) (s : State) : Popped :=
  let atLr := if a then 1 else 0
  let atPsw := atLr + if l then 2 else 0
  let atPc := atPsw + if e then 1 else 0
  { slots := atPc + if p then 2 else 0
    ea := if a then s.slot 0 else s.ea
    lr := if l then s.slot atLr else s.lr
    lcsr := if l then (s.slot (atLr + 1)).extractLsb' 0 8 else s.lcsr
    psw := if e then (s.slot atPsw).extractLsb' 0 8 else s.psw
    pc := if p then s.slot atPc &&& 0xFFFE else s.pc
    csr := if p then (s.slot (atPc + 1)).extractLsb' 0 8 else s.csr }

theorem execPopList_eq (l e p a : Bool) (s : State) : execPopList l e p a s = .next (s.withPopped (poppedItems l e p a s)) := by
  have hitems : execPopList l e p a (s.withPopped s.unpopped) = .next (s.withPopped (poppedItems l e p a s)) := by
    simp only [execPopList, whenSelected_popEA, whenSelected_popLR, whenSelected_popPSW, whenSelected_popPC, bind,
      Except.bind, finish, State.unpopped, Nat.zero_add, poppedItems]
  rwa [s.withPopped_unpopped] at hitems

end Sys2Proof.Machine

namespace Sys2Proof

open Machine

/-! ## From the shared operation to what a form does -/

section
variable {ws : List Word} {i : Instr} {k : Nat} {n : RegNum}

theorem pushes_of_exec (hk : k ≤ 16) (hwf : i.wellFormed = true) (hwords : encode i = ws)
    (hexec : ∀ s, exec i s = finish (pushGroup k n s)) : Pushes ws i k n (stackBytes k) := by
  refine ⟨decodesAs_of_encode hwf hwords, fun s hw => ?_⟩
  obtain ⟨m, hpushed, hstored⟩ := pushGroup_spec hk n s
  exact ⟨_, (hexec s).trans (finish_eq_next.2 hpushed), rfl, hstored.storedAt hw segmentAnswers_zero, rfl⟩

theorem pops_of_exec (hk : k ≤ 16) (hwf : i.wellFormed = true) (hwords : encode i = ws)
    (hexec : ∀ s, exec i s = finish (popGroup k n s)) : Pops ws i k n (stackBytes k) := by
  refine ⟨decodesAs_of_encode hwf hwords, fun s _ => ?_⟩
  obtain ⟨v, hread, hpopped⟩ := popGroup_spec k n s
  obtain ⟨hinside, houtside⟩ := (s.setSp (s.sp + stackBytes k)).setGroup_written hk n v
  refine ⟨_, (hexec s).trans (finish_eq_next.2 hpopped), v, hread, ⟨hinside, houtside⟩, State.setGroup_sp .., ?_⟩
  rw [State.setGroup_sp]
  exact State.setGroup_eq ..

end

/-- The word of a register list: its four bits, then the byte that selects the form. -/
theorem words_list (l e p a : Bool) (y : Byte) : [mkWord 0xF (listField l e p a) (hiNibble y) (loNibble y)] =
    [(0xF#4 ++ BitVec.ofBool l ++ BitVec.ofBool e ++ BitVec.ofBool p ++ BitVec.ofBool a ++ y : Word)] := by
  have hfield : (0xF#4 ++ listField l e p a : Byte) =
      0xF#4 ++ BitVec.ofBool l ++ BitVec.ofBool e ++ BitVec.ofBool p ++ BitVec.ofBool a := by
    revert l e p a; decide
  rw [words_imm8, ← hfield]
  rfl

/-! ## The statements -/

/-- Settles O27: each form is the shared push of its group. -/
theorem pushGroups : Obligations.PushGroups :=
  ⟨fun n => pushes_of_exec (by decide) rfl (words_imm8 0xF n 0x4E) fun _ => rfl,
    fun n hn => pushes_of_exec (by decide) hn (words_imm8 0xF n 0x5E) fun _ => rfl,
    fun n hn => pushes_of_exec (by decide) hn (words_imm8 0xF n 0x6E) fun _ => rfl,
    fun n hn => pushes_of_exec (by decide) hn (words_imm8 0xF n 0x7E) fun _ => rfl⟩

/-- Settles O28: each form is the shared pop of its group. -/
theorem popGroups : Obligations.PopGroups :=
  ⟨fun n => pops_of_exec (by decide) rfl (words_imm8 0xF n 0x0E) fun _ => rfl,
    fun n hn => pops_of_exec (by decide) hn (words_imm8 0xF n 0x1E) fun _ => rfl,
    fun n hn => pops_of_exec (by decide) hn (words_imm8 0xF n 0x2E) fun _ => rfl,
    fun n hn => pops_of_exec (by decide) hn (words_imm8 0xF n 0x3E) fun _ => rfl⟩

/-- Settles O29: what has been pushed is read back, and SP comes back to where it was. -/
theorem pushPopRoundTrip : Obligations.PushPopRoundTrip := by
  intro s hw
  refine ⟨fun n => execTwo_pushGroup_popGroup_self (by decide) (fun _ => rfl) (fun _ => rfl) hw,
    fun n _ => execTwo_pushGroup_popGroup_self (by decide) (fun _ => rfl) (fun _ => rfl) hw,
    fun n _ => execTwo_pushGroup_popGroup_self (by decide) (fun _ => rfl) (fun _ => rfl) hw,
    fun n _ => execTwo_pushGroup_popGroup_self (by decide) (fun _ => rfl) (fun _ => rfl) hw,
    fun n m => ?_,
    fun n m _ _ => execTwo_pushGroup_popGroup_copies (by decide) (fun _ => rfl) (fun _ => rfl) hw,
    fun n m _ _ => execTwo_pushGroup_popGroup_copies (by decide) (fun _ => rfl) (fun _ => rfl) hw,
    fun n m _ _ => execTwo_pushGroup_popGroup_copies (by decide) (fun _ => rfl) (fun _ => rfl) hw⟩
  obtain ⟨t, hnext, hwritten⟩ := execTwo_pushGroup_popGroup_copies (k := 1) (n := n) (m := m) (i := .pushRn n)
    (j := .popRn m) (by decide) (fun _ => rfl) (fun _ => rfl) hw
  rw [State.group_one] at hwritten
  exact ⟨t, hnext, byteWritten_of_groupWritten hwritten⟩

/-- Settles O30: the list is the words of its items, pushed in turn. -/
theorem pushListLayout : Obligations.PushListLayout := by
  intro l e p a
  refine ⟨decodesAs_of_encode rfl (words_list l e p a 0xCE), fun s hw => ?_⟩
  obtain ⟨t, hpush, hpushed⟩ := pushWords_spec (pushedItems_fit l e p a s) hw
  have hsp : t.sp = s.sp - BitVec.ofNat 16 (2 * (pushedItems l e p a s).length) := by rw [hpushed.only]; rfl
  refine ⟨t, (execPushList_eq l e p a s).trans (finish_eq_next.2 hpush), hsp, hpushed.slots, ?_, hpushed.canonical, ?_⟩
  · rw [hsp]
    exact hpushed.outside
  · rw [hsp]
    exact hpushed.only

/-- Settles O31: each item pops its slots from the SP that the items before it leave. -/
theorem popListOrder : Obligations.PopListOrder := by
  intro l e p a
  refine ⟨decodesAs_of_encode rfl (words_list l e p a 0x8E), fun s _ => ?_⟩
  refine ⟨_, execPopList_eq l e p a s, rfl, State.withPopped_lr .., State.withPopped_lcsr .., State.withPopped_psw .., rfl,
    rfl, rfl, ?_⟩
  rw [State.withPopped_lr, State.withPopped_lcsr, State.withPopped_psw]
  rfl

end Sys2Proof

/-! # 44_control_register.md: the moves to and from the banked cells, PSW and SP, and the instructions that write EA or one
bit of PSW -/

namespace Sys2Proof.Machine

/-! ## One bit of PSW replaced (10_state.md R30) -/

theorem State.setC_eq (s : State) (b : Bool) : s.setC b = s.setPsw (pswCarry s.psw b) :=
  congrArg s.setPsw (withC_eq s.psw b)

theorem State.setMIE_eq (s : State) (b : Bool) : s.setMIE b = s.setPsw (pswEnable s.psw b) :=
  congrArg s.setPsw (withMIE_eq s.psw b)

/-- The host's accessor sees the MIE that EI or DI has written (44_control_register.md R266, R267). -/
theorem getMasterInterruptEnable_setMIE (s : State) (b : Bool) : getMasterInterruptEnable (s.setMIE b) = b := by
  rw [getMasterInterruptEnable, State.setMIE_psw, pswMIE_withMIE]

/-! ## Sums modulo 2^16 (30_encoding.md R97, 42_load_store.md R186) -/

theorem offDisp16_eq (m : RegNum) (d : Word) (s : State) : offDisp16 m d s = BitVec.ofNat 16 ((s.er m).toNat + d.toNat) := by
  rw [offDisp16, BitVec.ofNat_add, BitVec.ofNat_toNat, BitVec.ofNat_toNat, BitVec.setWidth_eq, BitVec.setWidth_eq]

theorem add_sext8 (x : Word) (imm : Byte) : x + sext8 imm = BitVec.ofInt 16 (x.toNat + imm.toInt) := by
  rw [BitVec.ofInt_add, BitVec.ofInt_natCast, BitVec.ofNat_toNat, BitVec.setWidth_eq]
  rfl

/-! ## What a register write and a bank write change (10_state.md R21, R42) -/

theorem State.setR_written (s : State) (n : RegNum) (v : Byte) : ByteWritten n v s (s.setR n v) := fun x =>
  (s.setR_r n v x).trans (if_congr eq_comm rfl rfl)

theorem State.setEr_written (s : State) (n : RegNum) (v : Word) : GroupWritten 2 n v s (s.setEr n v) := by
  obtain ⟨hinside, houtside⟩ := s.setGroup_written (by decide : 2 ≤ 16) n v
  exact ⟨hinside, houtside⟩

theorem State.setEr_onlyRegs (s : State) (n : RegNum) (v : Word) : OnlyRegs s (s.setEr n v) := s.setGroup_eq 2 n v

theorem State.setElr_written (s : State) (l : BitVec 2) (v : Word) (i : BitVec 2) :
    (s.setElr l v).elrOf i = if i = l then v else s.elrOf i :=
  (s.setElr_elrOf l v i).trans (if_congr eq_comm rfl rfl)

theorem State.setEcsr_written (s : State) (l : BitVec 2) (v : Byte) (i : BitVec 2) :
    (s.setEcsr l v).ecsrOf i = if i = l then v else s.ecsrOf i :=
  (s.setEcsr_ecsrOf l v i).trans (if_congr eq_comm rfl rfl)

/-! ## The EPSW moves at level 0 (44_control_register.md R252, R255) -/

/-- What MOV EPSW,Rm leaves: EPSW[ELEVEL] replaced, but nothing at level 0, where that cell is PSW. -/
def State.movedToEpsw (s : State) (v : Byte) : State := if s.level = 0 then s else s.setEpsw s.level v

theorem execMovEPSWRm_eq (m : RegNum) (s : State) : execMovEPSWRm m s = .next (s.movedToEpsw (s.r m)) := rfl

theorem State.movedToEpsw_epswOf (s : State) (v : Byte) (l : BitVec 2) :
    (s.movedToEpsw v).epswOf l = if l = s.level ∧ l ≠ 0 then v else s.epswOf l := by
  unfold State.movedToEpsw
  split
  · next hzero =>
    have hno : ¬(l = s.level ∧ l ≠ 0) := fun ⟨hl, hne⟩ => hne (hl.trans hzero)
    rw [if_neg hno]
  · next hne =>
    have hiff : s.level = l ↔ l = s.level ∧ l ≠ 0 := ⟨fun h => ⟨h.symm, fun h0 => hne (h.trans h0)⟩, fun ⟨h, _⟩ => h.symm⟩
    rw [State.setEpsw_epswOf]
    exact if_congr hiff rfl rfl

theorem State.movedToEpsw_eq (s : State) (v : Byte) : s.movedToEpsw v = { s with epsw := (s.movedToEpsw v).epsw } := by
  unfold State.movedToEpsw
  split <;> rfl

/-- At level 0 MOV Rn,EPSW writes Rn's own value back. -/
theorem execMovRnEPSW_eq (n : RegNum) (s : State) :
    execMovRnEPSW n s = .next (s.setR n (if s.level = 0 then s.r n else s.epswOf s.level)) := by
  unfold execMovRnEPSW
  split
  · rw [State.setR_self]
  · rfl

end Sys2Proof.Machine

namespace Sys2Proof

open Machine

/-! ## From an instruction's next state to what it does -/

section
variable {ws : List Word} {i : Instr} {n : RegNum} {t : State → State}

theorem does_of_exec {pre : State → Prop} {post : State → State → Prop} (hwf : i.wellFormed = true) (hwords : encode i = ws)
    (hexec : ∀ s, exec i s = .next (t s)) (hpost : ∀ s, post s (t s)) : Does ws i pre post :=
  ⟨decodesAs_of_encode hwf hwords, fun s _ => ⟨t s, hexec s, hpost s⟩⟩

theorem movesByte_of_exec {v : State → Byte} (hwf : i.wellFormed = true) (hwords : encode i = ws)
    (hexec : ∀ s, exec i s = .next (s.setR n (v s))) :
    Does ws i anyState fun s t => ByteWritten n (v s) s t ∧ OnlyRegs s t :=
  does_of_exec hwf hwords hexec fun s => ⟨s.setR_written n (v s), rfl⟩

theorem movesPair_of_exec {v : State → Word} (hwf : i.wellFormed = true) (hwords : encode i = ws)
    (hexec : ∀ s, exec i s = .next (s.setEr n (v s))) :
    Does ws i anyState fun s t => GroupWritten 2 n (v s) s t ∧ OnlyRegs s t :=
  does_of_exec hwf hwords hexec fun s => ⟨s.setEr_written n (v s), s.setEr_onlyRegs n (v s)⟩

theorem leadsTo_of_exec (hwf : i.wellFormed = true) (hwords : encode i = ws) (hexec : ∀ s, exec i s = .next (t s)) :
    LeadsTo ws i t :=
  does_of_exec hwf hwords hexec fun _ => rfl

end

/-! ## The statements -/

/-- Settles O32: a move to a bank writes the cell of the current level, a move from one writes the register; the EPSW moves
keep everything at level 0. -/
theorem bankMoves : Obligations.BankMoves :=
  ⟨fun m => does_of_exec rfl rfl (fun _ => rfl) fun s => ⟨s.setEcsr_written s.level (s.r m), rfl⟩,
    fun m => does_of_exec rfl rfl (execMovEPSWRm_eq m) fun s => ⟨s.movedToEpsw_epswOf (s.r m), s.movedToEpsw_eq (s.r m)⟩,
    fun m hm => does_of_exec hm (words_imm8 0xA m 0x0D) (fun _ => rfl) fun s => ⟨s.setElr_written s.level (s.er m), rfl⟩,
    fun n hn => movesPair_of_exec hn (words_imm8 0xA n 0x05) fun _ => rfl,
    fun n => movesByte_of_exec rfl (words_imm8 0xA n 0x04) (execMovRnEPSW_eq n),
    fun n => movesByte_of_exec rfl (words_imm8 0xA n 0x07) fun _ => rfl⟩

/-- Settles O33: each form is one write of PSW, of a register or of SP, and the signed byte adds its number. -/
theorem pswAndSpMoves : Obligations.PswAndSpMoves := by
  refine ⟨fun _ => writesPsw_of_exec rfl rfl (fun _ => rfl) fun _ => rfl,
    fun imm => writesPsw_of_exec rfl (words_imm8 0xE 0x9 imm) (fun _ => rfl) fun _ => rfl,
    fun n => movesByte_of_exec rfl (words_imm8 0xA n 0x03) fun _ => rfl,
    fun n hn => movesPair_of_exec hn (words_imm8 0xA n 0x1A) fun _ => rfl,
    fun _ hm => leadsTo_of_exec hm rfl fun _ => rfl,
    fun imm => leadsTo_of_exec rfl (words_imm8 0xE 0x1 imm) fun s => ?_⟩
  rw [← add_sext8]
  rfl

/-- Settles O34: LEA writes the offset of its mode to EA, and each fixed word writes one bit of PSW. -/
theorem leaAndSingleBits : Obligations.LeaAndSingleBits := by
  refine ⟨fun _ hm => leadsTo_of_exec hm rfl fun _ => rfl,
    fun m d hm => leadsTo_of_exec hm rfl fun s => ?_,
    fun _ => leadsTo_of_exec rfl rfl fun _ => rfl,
    writesPsw_of_exec rfl rfl (fun _ => rfl) fun s => s.setMIE_eq true,
    writesPsw_of_exec rfl rfl (fun _ => rfl) fun s => s.setMIE_eq false,
    writesPsw_of_exec rfl rfl (fun _ => rfl) fun s => s.setC_eq true,
    writesPsw_of_exec rfl rfl (fun _ => rfl) fun s => s.setC_eq false,
    writesPsw_of_exec rfl rfl (fun _ => rfl) fun s => s.setC_eq (!s.c),
    fun s t => ⟨fun h => ?_, fun h => ?_⟩⟩
  · rw [← offDisp16_eq]
    rfl
  · obtain rfl : s.setMIE true = t := Host.Outcome.next.inj h
    exact getMasterInterruptEnable_setMIE s true
  · obtain rfl : s.setMIE false = t := Host.Outcome.next.inj h
    exact getMasterInterruptEnable_setMIE s false

end Sys2Proof

/-! # 45_branch.md: the condition codes, the conditional branch, and the jumps, calls and returns -/

namespace Sys2Proof.Machine

/-! ## A condition reads C, Z, S and OV alone (45_branch.md R281) -/

theorem condHolds_congr {p q : Byte} (hc : pswC p = pswC q) (hz : pswZ p = pswZ q) (hs : pswS p = pswS q)
    (hov : pswOV p = pswOV q) (c : Cond) : condHolds c p = condHolds c q := by
  cases c with
  | ge | lt => simp only [condHolds, hc]
  | gt | le => simp only [condHolds, hz, hc]
  | ges | lts => simp only [condHolds, hov, hs]
  | gts | les => simp only [condHolds, hov, hs, hz]
  | ne | eq => simp only [condHolds, hz]
  | nv | ov => simp only [condHolds, hov]
  | ps | ns => simp only [condHolds, hs]
  | al | al15 => rfl

/-- The four flags are the high half of PSW, in the order of the truth table's columns. -/
theorem condHolds_flagHalf (c : Cond) (p : Byte) : condHolds c p = condHolds c (p.extractLsb' 4 4 ++ 0#4) := by
  apply condHolds_congr <;> simp only [pswC, pswZ, pswS, pswOV, BitVec.getLsbD_append] <;> simp

/-! ## What a condition means after a comparison (45_branch.md R281)

The odd codes are read off PSW; each even code is the opposite of the odd one after it. -/

/-- A condition holds where the opposite one fails. -/
theorem condHolds_opposite {c d : Cond} {q : Byte} {P : Prop} (hop : condHolds c q = !condHolds d q)
    (hd : condHolds d q = true ↔ P) : condHolds c q = true ↔ ¬ P := by
  rw [hop, Bool.not_eq_true', ← hd, Bool.not_eq_true]

/-- What the codes GE to EQ say of two numbers, read unsigned as `u` and `v` and signed as `x` and `y`. -/
def OrderConditions (q : Byte) (u v : Nat) (x y : Int) : Prop :=
  (condHolds .ge q = true ↔ v ≤ u) ∧ (condHolds .lt q = true ↔ u < v) ∧ (condHolds .gt q = true ↔ v < u) ∧
  (condHolds .le q = true ↔ u ≤ v) ∧ (condHolds .ges q = true ↔ y ≤ x) ∧ (condHolds .lts q = true ↔ x < y) ∧
  (condHolds .gts q = true ↔ y < x) ∧ (condHolds .les q = true ↔ x ≤ y) ∧ (condHolds .ne q = true ↔ u ≠ v) ∧
  (condHolds .eq q = true ↔ u = v)

theorem sub_eq_ofInt {w : Nat} (a b : BitVec w) : a - b = BitVec.ofInt w ((a.toNat : Int) - b.toNat) := by
  simp [Int.sub_eq_add_neg, BitVec.sub_eq_add_neg, BitVec.ofInt_add, BitVec.ofInt_neg]

section
variable (h : Nat) (p : Byte) {w : Nat} (a b : BitVec (w + 1))

theorem condHolds_eq_pswDifference : condHolds .eq (pswDifference h p a b false) = true ↔ a = b :=
  pswZ_pswDifference h p a b

theorem condHolds_lt_pswDifference : condHolds .lt (pswDifference h p a b false) = true ↔ a.toNat < b.toNat :=
  pswC_pswDifference h p a b

theorem condHolds_le_pswDifference : condHolds .le (pswDifference h p a b false) = true ↔ a.toNat ≤ b.toNat := by
  rw [condHolds, Bool.or_eq_true, pswZ_pswDifference, pswC_pswDifference, ← BitVec.toNat_inj, or_comm, Nat.le_iff_lt_or_eq]

theorem condHolds_lts_pswDifference : condHolds .lts (pswDifference h p a b false) = true ↔ a.toInt < b.toInt :=
  pswOV_xor_pswS_pswDifference h p a b

theorem condHolds_les_pswDifference : condHolds .les (pswDifference h p a b false) = true ↔ a.toInt ≤ b.toInt := by
  rw [condHolds, Bool.or_eq_true, pswOV_xor_pswS_pswDifference, pswZ_pswDifference, ← BitVec.toInt_inj, le_iff_lt_or_eq]

theorem condHolds_ov_pswDifference :
    condHolds .ov (pswDifference h p a b false) = outOfRange (w + 1) (a.toInt - b.toInt) := by
  simp [condHolds, pswDifference]

theorem condHolds_ns_pswDifference : condHolds .ns (pswDifference h p a b false) = (a - b).msb := by
  rw [sub_eq_ofInt, ← Int.sub_zero ((a.toNat : Int) - b.toNat), msb_ofInt]
  exact pswS_packPsw ..

theorem orderConditions_pswDifference :
    OrderConditions (pswDifference h p a b false) a.toNat b.toNat a.toInt b.toInt := by
  have hlt := condHolds_lt_pswDifference h p a b
  have hle := condHolds_le_pswDifference h p a b
  have hlts := condHolds_lts_pswDifference h p a b
  have hles := condHolds_les_pswDifference h p a b
  have heq := (condHolds_eq_pswDifference h p a b).trans BitVec.toNat_inj.symm
  exact ⟨(condHolds_opposite rfl hlt).trans not_lt, hlt, (condHolds_opposite rfl hle).trans not_le, hle,
    (condHolds_opposite rfl hlts).trans not_lt, hlts, (condHolds_opposite rfl hles).trans not_le, hles,
    condHolds_opposite rfl heq, heq⟩

/-- The codes of overflow and sign after a comparison. -/
theorem overflowAndSign_pswDifference :
    (condHolds .ov (pswDifference h p a b false) = true ↔ outOfRange (w + 1) (a.toInt - b.toInt) = true) ∧
    condHolds .nv (pswDifference h p a b false) = !condHolds .ov (pswDifference h p a b false) ∧
    condHolds .ns (pswDifference h p a b false) = (a - b).msb ∧
    condHolds .ps (pswDifference h p a b false) = !condHolds .ns (pswDifference h p a b false) :=
  ⟨Bool.eq_iff_iff.1 (condHolds_ov_pswDifference h p a b), rfl, condHolds_ns_pswDifference h p a b, rfl⟩

end

/-! ## The target of a conditional branch (45_branch.md R282) -/

/-- The displacement is twice a signed number. -/
theorem branchDisp_eq (d : Byte) : branchDisp d = BitVec.ofInt 16 (2 * d.toInt) := by
  revert d; decide

theorem add_branchDisp (v : Word) (d : Byte) : v + branchDisp d = BitVec.ofInt 16 (v.toNat + 2 * d.toInt) := by
  rw [branchDisp_eq, BitVec.ofInt_add, BitVec.ofInt_natCast, BitVec.ofNat_toNat, BitVec.setWidth_eq]

/-- An even PC and an even displacement: the mask of PC drops nothing (45_branch.md R289). -/
theorem even_add_branchDisp {v : Word} (hv : v.getLsbD 0 = false) (d : Byte) : (v + branchDisp d).getLsbD 0 = false := by
  rw [BitVec.getLsbD_add (by decide), hv]
  simp [branchDisp]

theorem execBcond_of_even (c : Cond) (d : Byte) {s : State} (heven : s.pc.getLsbD 0 = false) : execBcond c d s =
    .next (if condHolds c s.psw then { s with pc := BitVec.ofInt 16 (s.pc.toNat + 2 * d.toInt) } else s) := by
  rw [execBcond, State.setPc, pc_mask_of_even (even_add_branchDisp heven d), add_branchDisp]

/-! ## Calls (45_branch.md R284, R286, R288) -/

theorem segField_eq (g : BitVec 4) : segField g = BitVec.ofNat 8 g.toNat := by
  revert g; decide

/-- The state after a call: PC and CSR saved in the link registers, then replaced. -/
def State.called (s : State) (csr : Byte) (target : Word) : State :=
  ((s.setLink s.pc s.csr).setCsr csr).setPc target

section
variable (s : State) (csr : Byte) (target : Word)

theorem State.called_lr : (s.called csr target).lr = s.pc := s.setLink_lr s.pc s.csr

theorem State.called_lcsr : (s.called csr target).lcsr = s.csr := s.setLink_lcsr s.pc s.csr

/-- BL Cadr calls into the segment it names. -/
theorem exec_blCadr (g : BitVec 4) (a : Word) : exec (.blCadr g a) s = .next (s.called (segField g) a) := rfl

/-- BL ERn calls within the current segment, and its target is read before the linkage is written. -/
theorem exec_blERn (n : RegNum) : exec (.blERn n) s = .next (s.called s.csr (s.er n)) := rfl

/-- RT after a call finds PC and CSR as they were and leaves the link registers; an even PC survives its mask. -/
theorem exec_rt_called (heven : s.pc.getLsbD 0 = false) :
    exec .rt (s.called csr target) = .next (s.setLink s.pc s.csr) := by
  calc exec .rt (s.called csr target)
      = .next (((s.called csr target).setCsr (s.called csr target).lcsr).setPc (s.called csr target).lr) := rfl
    _ = .next (((s.called csr target).setCsr s.csr).setPc s.pc) := by rw [State.called_lr, State.called_lcsr]
    _ = .next { s.setLink s.pc s.csr with csr := s.csr, pc := s.pc } := by rw [State.setPc, pc_mask_of_even heven]; rfl
    _ = .next (s.setLink s.pc s.csr) := rfl

end

theorem execTwo_of_next {i j : Instr} {s t : State} (h : exec i s = .next t) : execTwo i j s = exec j t := by
  rw [execTwo, h]

end Sys2Proof.Machine

namespace Sys2Proof

open Machine

/-- A first word with an immediate byte, and the word after it. -/
theorem words_imm8_long (x n : BitVec 4) (imm : Byte) (a : Word) :
    [mkWord x n (hiNibble imm) (loNibble imm), a] = [(x ++ n ++ imm : Word), a] :=
  congrArg (· ++ [a]) (words_imm8 x n imm)

/-- PUSH LR, then POP PC: the two slots pushed are the two slots popped (43_stack.md R241). -/
theorem execTwo_pushLr_popPc {s : State} (hw : Memory.wf s.mem = true) :
    ∃ t, execTwo (.pushList true false false false) (.popList false false true false) s = .next t ∧
      t.pc = s.lr &&& 0xFFFE ∧ t.csr = s.lcsr ∧ t.sp = s.sp := by
  obtain ⟨u, hpush, husp, hslots, -, -, -⟩ := (pushListLayout true false false false).2 s hw
  obtain ⟨t, hpop, -, -, -, -, hpc, hcsr, htsp, -⟩ := (popListOrder false false true false).2 u trivial
  have hsegment : slotWord u.mem (s.sp - 2) = s.lcsr.zeroExtend 16 := hslots 0 Nat.zero_lt_two
  have hoffset : slotWord u.mem (s.sp - 4) = s.lr := hslots 1 Nat.one_lt_two
  have hlow : u.sp = s.sp - 4 := husp
  have hhigh : u.sp + 2 = s.sp - 2 := by rw [hlow]; bv_omega
  refine ⟨t, (execTwo_of_next hpush).trans hpop, ?_, ?_, ?_⟩
  · calc t.pc = slotWord u.mem (u.sp + 0#16) &&& 0xFFFE := hpc
      _ = s.lr &&& 0xFFFE := by rw [BitVec.add_zero, hlow, hoffset]
  · calc t.csr = (slotWord u.mem (u.sp + 2)).extractLsb' 0 8 := hcsr
      _ = (s.lcsr.zeroExtend 16).extractLsb' 0 8 := by rw [hhigh, hsegment]
      _ = s.lcsr := by generalize s.lcsr = c; revert c; decide
  · calc t.sp = u.sp + 4 := htsp
      _ = s.sp := by rw [hlow, BitVec.sub_add_cancel]

/-! ## The statements -/

/-- Settles O35: a condition reads the column of the table off the high half of PSW, and the flags of a comparison are those
of the exact difference. -/
theorem conditionTable : Obligations.ConditionTable := by
  refine ⟨fun code p => ?_,
    fun p a b => ⟨orderConditions_pswDifference 4 p a b, overflowAndSign_pswDifference 4 p a b⟩,
    fun p a b => ⟨orderConditions_pswDifference 12 p a b, overflowAndSign_pswDifference 12 p a b⟩⟩
  rw [condHolds_flagHalf]
  generalize p.extractLsb' 4 4 = column
  revert code column
  decide

/-- Settles O36: from an even PC the target is even, so the mask of PC drops nothing of the sum. -/
theorem conditionalBranch : Obligations.ConditionalBranch := by
  intro c d
  have hwords : encode (.bcond (Cond.ofCode c) d) = [(0xC#4 ++ c ++ d : Word)] :=
    calc encode (.bcond (Cond.ofCode c) d)
        = [mkWord 0xC (Cond.ofCode c).code (hiNibble d) (loNibble d)] := rfl
      _ = [mkWord 0xC c (hiNibble d) (loNibble d)] := by rw [Cond.code_ofCode]
      _ = [(0xC#4 ++ c ++ d : Word)] := words_imm8 0xC c d
  exact ⟨decodesAs_of_encode rfl hwords, fun s heven => ⟨_, execBcond_of_even (Cond.ofCode c) d heven, rfl⟩⟩

/-- Settles O37: each form writes PC without bit 0 and, where it names a segment, CSR; the calls save both first. -/
theorem jumpsAndCalls : Obligations.JumpsAndCalls := by
  refine ⟨fun g a => leadsTo_of_exec rfl (words_imm8_long 0xF g 0x00 a) fun s => ?_,
    fun g a => does_of_exec rfl (words_imm8_long 0xF g 0x01 a) (exec_blCadr · g a) fun s =>
      ⟨State.called_lr .., State.called_lcsr .., ?_⟩,
    fun _ hn => leadsTo_of_exec hn rfl fun _ => rfl,
    fun n hn => does_of_exec hn rfl (exec_blERn · n) fun s => ⟨State.called_lr .., State.called_lcsr .., ?_⟩,
    leadsTo_of_exec rfl rfl fun _ => rfl⟩
  · rw [← segField_eq]
    rfl
  · rw [← segField_eq, State.called_lr, State.called_lcsr]
    rfl
  · rw [State.called_lr, State.called_lcsr]
    rfl

/-- Settles O38: both forms of BL save PC and CSR where RT finds them; PUSH LR puts them where POP PC finds them. -/
theorem callsReturn : Obligations.CallsReturn := fun s heven =>
  ⟨fun g a => (execTwo_of_next (exec_blCadr s g a)).trans (exec_rt_called s _ _ heven),
    fun n _ => (execTwo_of_next (exec_blERn s n)).trans (exec_rt_called s _ _ heven),
    execTwo_pushLr_popPc⟩

end Sys2Proof

/-! # 46_interrupt.md: the return from an exception, and the two calls of the platform -/

namespace Sys2Proof.Machine

/-- The return writes CSR, PC and PSW, and nothing else (46_interrupt.md R300 (b), (c)). -/
theorem returnFromException_frame (s : State) : returnFromException s =
    { s.setPsw (returnFromException s).psw with csr := (returnFromException s).csr, pc := (returnFromException s).pc } := by
  rw [returnFromException_psw]
  rfl

/-- At level 0 the active bank holds LCSR, LR and PSW, and PSW is put back where it was read (46_interrupt.md R300 (a)). -/
theorem returnFromException_of_level_zero {s : State} (h : s.level = 0) :
    returnFromException s = (s.setCsr s.lcsr).setPc s.lr := by
  calc returnFromException s
      = ((s.setCsr (s.ecsrOf s.level)).setPc (s.elrOf s.level)).setPsw (s.epswOf s.level) := rfl
    _ = ((s.setCsr s.lcsr).setPc s.lr).setPsw s.psw := by rw [h]; rfl
    _ = (s.setCsr s.lcsr).setPc s.lr := State.setPsw_self ((s.setCsr s.lcsr).setPc s.lr)

theorem exec_rti (s : State) : exec .rti s = .next (returnFromException s) := rfl

theorem exec_rt (s : State) : exec .rt s = .next ((s.setCsr s.lcsr).setPc s.lr) := rfl

/-- The call of the platform is the whole effect of SWI (46_interrupt.md R301). -/
theorem exec_swi (k : BitVec 6) (s : State) : exec (.swi k) s = .next (s.setSignal (some (.swi k))) := rfl

/-- The call of the platform is the whole effect of BRK (46_interrupt.md R302). -/
theorem exec_brk (s : State) : exec .brk s = .next (s.setSignal (some .brk)) := rfl

end Sys2Proof.Machine

namespace Sys2Proof

open Machine

/-! ## The statements -/

/-- Settles O40: RTI is the return from an exception, which reads the bank of the old level; bank 0 is the one RT reads. -/
theorem returnFromInterrupt : Obligations.ReturnFromInterrupt :=
  ⟨does_of_exec rfl rfl exec_rti fun s => ⟨returnFromException_csr s, returnFromException_pc s, returnFromException_psw s,
      returnFromException_frame s⟩,
    fun s hlevel => by rw [exec_rti, exec_rt, returnFromException_of_level_zero hlevel]⟩

/-- Settles O42: each leaves its call in the field for the platform; the index of SWI is the low six bits of its word. -/
theorem softwareSignals : Obligations.SoftwareSignals :=
  ⟨fun k => leadsTo_of_exec rfl (words_disp6 0xE 0x5 0b00 k) (exec_swi k), leadsTo_of_exec rfl rfl exec_brk⟩

end Sys2Proof

/-! # 47_misc.md: multiply and divide, decimal adjust, byte extension, bytes and bits read, changed and written back, NOP
and the DSR prefixes -/

namespace Sys2Proof.Machine

/-! ## PSW after the miscellaneous results (10_state.md R32) -/

theorem State.setZ_eq (s : State) (b : Bool) : s.setZ b = s.setPsw (pswZero s.psw b) :=
  congrArg s.setPsw (withZ_eq s.psw b)

/-- The flags of INC [EA] and DEC [EA] are those of the helper with the old C put back (10_state.md R34). -/
theorem withArithKeepC_eq_pswCarry (p : Byte) (f : Flags) : withArithKeepC p f = pswCarry (withArith p f) (pswC p) := by
  rw [withArithKeepC_eq, withArith_eq]
  simp only [pswCarry, pswZ_packPsw, pswS_packPsw, pswOV_packPsw, pswMIE_packPsw, pswHC_packPsw, pswLevel_packPsw]

/-! ## Multiply and divide (47_misc.md R310, R311) -/

/-- The product of two bytes fits in a word. -/
theorem byte_mul_lt (a b : Byte) : a.toNat * b.toNat < 2 ^ 16 :=
  Nat.mul_lt_mul'' (c := 2 ^ 8) (d := 2 ^ 8) a.isLt b.isLt

theorem zeroExtend_mul_eq (a b : Byte) :
    (a.zeroExtend 16 * b.zeroExtend 16 : Word) = BitVec.ofNat 16 (a.toNat * b.toNat) := by
  rw [BitVec.ofNat_mul, BitVec.ofNat_toNat, BitVec.ofNat_toNat]

theorem ofNat_beq_zero {w x : Nat} (h : x < 2 ^ w) : (BitVec.ofNat w x == 0) = decide (x = 0) :=
  (beq_zero_eq _).trans (by rw [BitVec.toNat_ofNat, Nat.mod_eq_of_lt h])

theorem execMulERnRm_eq (n m : RegNum) (s : State) : execMulERnRm n m s =
    .next ((s.setPsw (pswZero s.psw (decide ((s.r n).toNat * (s.r m).toNat = 0)))).setEr n
      (BitVec.ofNat 16 ((s.r n).toNat * (s.r m).toNat))) := by
  simp only [execMulERnRm, zeroExtend_mul_eq]
  rw [State.setZ_eq, ofNat_beq_zero (byte_mul_lt _ _)]

/-- PSW after a division by a divisor that is not 0: C cleared, Z that of the quotient. -/
def pswQuotient (p : Byte) (q : Nat) : Byte :=
  packPsw false (decide (q = 0)) (pswS p) (pswOV p) (pswMIE p) (pswHC p) (pswLevel p)

/-- What DIV leaves where the divisor is not 0: PSW, the remainder, then the quotient (47_misc.md R311). -/
def State.divided (s : State) (n m : RegNum) : State :=
  ((s.setPsw (pswQuotient s.psw ((s.er n).toNat / (s.r m).toNat))).setR m
    (BitVec.ofNat 8 ((s.er n).toNat % (s.r m).toNat))).setEr n (BitVec.ofNat 16 ((s.er n).toNat / (s.r m).toNat))

theorem execDivERnRm_zero {n m : RegNum} {s : State} (h : s.r m = 0) :
    execDivERnRm n m s = .next (takeException Config.div0Level.toBits Config.div0Index s) := if_pos h

theorem execDivERnRm_nonzero {n m : RegNum} {s : State} (h : s.r m ≠ 0) : execDivERnRm n m s = .next (s.divided n m) := by
  have hq : (s.er n).toNat / (s.r m).toNat < 2 ^ 16 := (Nat.div_le_self _ _).trans_lt (s.er n).isLt
  have hpsw : withZ (withC s.psw false) (BitVec.ofNat 16 ((s.er n).toNat / (s.r m).toNat) == 0) =
      pswQuotient s.psw ((s.er n).toNat / (s.r m).toNat) := by
    rw [withZ_eq, ofNat_beq_zero hq]
    simp [pswQuotient]
  simp only [execDivERnRm, if_neg h, hpsw]
  rfl

section
variable (s : State) (n m : RegNum)

theorem State.divided_er : (s.divided n m).er n = BitVec.ofNat 16 ((s.er n).toNat / (s.r m).toNat) :=
  State.setGroup_group _ (by decide) n _

/-- The quotient is written last, so it stands where the remainder's register is in the pair. -/
theorem State.divided_r {x : RegNum} (hlow : x ≠ n) (hhigh : x ≠ n + 1) :
    (s.divided n m).r x = if x = m then BitVec.ofNat 8 ((s.er n).toNat % (s.r m).toNat) else s.r x := by
  rw [State.divided, State.setEr_eq, State.setR_r_ne _ _ hhigh.symm, State.setR_r_ne _ _ hlow.symm, State.setR_r,
    State.setPsw_r]
  exact if_congr eq_comm rfl rfl

theorem State.divided_psw : (s.divided n m).psw = pswQuotient s.psw ((s.er n).toNat / (s.r m).toNat) := by
  rw [State.divided, State.setEr_psw, State.setR_psw, State.setPsw_psw]

theorem State.divided_onlyRegsPsw : OnlyRegsPsw s (s.divided n m) := by
  rw [OnlyRegsPsw, State.divided_psw]
  exact State.setGroup_eq _ 2 n _

end

/-! ## Decimal adjust (47_misc.md R313, R314) -/

/-- The adjustment as a number: 6 for the low digit and 0x60 for the high digit. -/
def bcdAmount (a : Byte) (c hc : Bool) : Nat :=
  (if hc = true ∨ 9 < a.toNat % 16 then 6 else 0) + (if c = true ∨ 0x99 < a.toNat then 0x60 else 0)

theorem bcdAdjust_toNat (a : Byte) (c hc : Bool) : (bcdAdjust a c hc).toNat = bcdAmount a c hc := by
  simp only [bcdAdjust, bcdAmount, Bool.or_eq_true, decide_eq_true_iff]
  split_ifs <;> rfl

theorem bcdAmount_le (a : Byte) (c hc : Bool) : bcdAmount a c hc ≤ 0x66 := by
  unfold bcdAmount
  split_ifs <;> decide

/-- PSW after a decimal adjustment that leaves `v`. -/
def pswAdjusted (p : Byte) (amount v : Nat) (hc : Bool) : Byte :=
  packPsw (pswC p || decide (0x60 ≤ amount)) (decide (v = 0)) (decide (128 ≤ v)) (pswOV p) (pswMIE p) hc (pswLevel p)

theorem bcdResult_eq (n : RegNum) (v adj : Byte) (hc : Bool) (s : State) :
    bcdResult n v adj hc s = (s.setPsw (pswAdjusted s.psw adj.toNat v.toNat hc)).setR n v := by
  have hpsw : withZS (withHC (withC s.psw (s.c || decide (0x60 ≤ adj.toNat))) hc) v =
      pswAdjusted s.psw adj.toNat v.toNat hc := by
    rw [withZS_eq, beq_zero_eq, msb_iff]
    simp [pswAdjusted, State.c]
  rw [bcdResult, hpsw]

/-- DAA adds the adjustment. -/
theorem execDaaRn_eq (n : RegNum) (s : State) : let amount := bcdAmount (s.r n) s.c s.hc
    let v := ((s.r n).toNat + amount) % 256
    execDaaRn n s = .next ((s.setPsw (pswAdjusted s.psw amount v (decide (15 < (s.r n).toNat % 16 + amount % 16)))).setR n
      (BitVec.ofNat 8 v)) := by
  intro amount v
  have hv : (s.r n + bcdAdjust (s.r n) s.c s.hc).toNat = v := by rw [BitVec.toNat_add, bcdAdjust_toNat]
  simp only [execDaaRn, bcdResult_eq, hv, bcdAdjust_toNat]
  rw [BitVec.eq_of_toNat_eq (x := s.r n + _) (y := BitVec.ofNat 8 v) (by simp [hv, v])]

/-- DAS subtracts the adjustment. -/
theorem execDasRn_eq (n : RegNum) (s : State) : let amount := bcdAmount (s.r n) s.c s.hc
    let v := ((s.r n).toNat + 256 - amount) % 256
    execDasRn n s = .next ((s.setPsw (pswAdjusted s.psw amount v (decide ((s.r n).toNat % 16 < amount % 16)))).setR n
      (BitVec.ofNat 8 v)) := by
  intro amount v
  have hle : amount ≤ 0x66 := bcdAmount_le ..
  have hv : (s.r n - bcdAdjust (s.r n) s.c s.hc).toNat = v := by
    rw [BitVec.toNat_sub, bcdAdjust_toNat]
    congr 1
    omega
  simp only [execDasRn, bcdResult_eq, hv, bcdAdjust_toNat]
  rw [BitVec.eq_of_toNat_eq (x := s.r n - _) (y := BitVec.ofNat 8 v) (by simp [hv, v])]

/-! ## Two-digit decimal numbers (47_misc.md R313, R314) -/

theorem bcd_toNat {x : Nat} (h : x < 100) : (bcd x).toNat = x / 10 * 16 + x % 10 := by
  rw [bcd, BitVec.toNat_ofNat]
  omega

/-- A difference of bytes, by natural numbers: one 256 borrowed. -/
theorem ofInt_difference (a b : Byte) {k : Nat} (hk : k ≤ 1) :
    BitVec.ofInt 8 ((a.toNat : Int) - b.toNat - k) = BitVec.ofNat 8 (a.toNat + 256 - b.toNat - k) := by
  have hb := b.isLt
  have hcast : ((a.toNat + 256 - b.toNat - k : Nat) : Int) = (a.toNat : Int) - b.toNat - k + 256 := by omega
  rw [← BitVec.ofInt_natCast, hcast, BitVec.ofInt_add]
  exact (BitVec.add_zero _).symm

/-- The adjustment of a sum of decimal digits: `t` is the sum of the high digits, `l` that of the low digits and the carry. -/
theorem bcdAmount_digitSum {t l : Nat} (hl : l ≤ 19) :
    bcdAmount (BitVec.ofNat 8 (16 * t + l)) (decide (256 ≤ 16 * t + l)) (decide (16 ≤ l)) =
      (if 10 ≤ l then 6 else 0) + (if 100 ≤ 10 * t + l then 0x60 else 0) := by
  simp only [bcdAmount, BitVec.toNat_ofNat, decide_eq_true_iff]
  refine congrArg₂ (· + ·) (if_congr ?_ rfl rfl) (if_congr ?_ rfl rfl)
  · omega
  · omega

/-- The adjustment of a difference of decimal digits: `t` is 15 more than that of the high digits, `l` 16 more than that of
the low digits less the borrow. -/
theorem bcdAmount_digitDifference {t l : Nat} (hlow : 6 ≤ l) (hl : l ≤ 25) (ht : t ≤ 24) :
    bcdAmount (BitVec.ofNat 8 (16 * t + l)) (decide (16 * t + l < 256)) (decide (l < 16)) =
      (if l < 16 then 6 else 0) + (if 10 * t + l < 166 then 0x60 else 0) := by
  simp only [bcdAmount, BitVec.toNat_ofNat, decide_eq_true_iff]
  refine congrArg₂ (· + ·) (if_congr ?_ rfl rfl) (if_congr ?_ rfl rfl)
  · omega
  · omega

section
variable {x y k : Nat} (hx : x < 100) (hy : y < 100) (hk : k ≤ 1)
include hx hy hk

/-- After an addition the adjustment has 6 where the low digits carry, and 0x60 where the numbers do. -/
theorem bcdAmount_sum : bcdAmount (BitVec.ofNat 8 ((bcd x).toNat + (bcd y).toNat + k))
    (decide (256 ≤ (bcd x).toNat + (bcd y).toNat + k)) (decide (16 ≤ (bcd x).toNat % 16 + (bcd y).toNat % 16 + k)) =
      (if 10 ≤ x % 10 + y % 10 + k then 6 else 0) + (if 100 ≤ x + y + k then 0x60 else 0) := by
  have hsum : (bcd x).toNat + (bcd y).toNat + k = 16 * (x / 10 + y / 10) + (x % 10 + y % 10 + k) := by
    rw [bcd_toNat hx, bcd_toNat hy]
    omega
  have hlow : (bcd x).toNat % 16 + (bcd y).toNat % 16 + k = x % 10 + y % 10 + k := by
    rw [bcd_toNat hx, bcd_toNat hy]
    omega
  have hdecimal : x + y + k = 10 * (x / 10 + y / 10) + (x % 10 + y % 10 + k) := by omega
  rw [hsum, hlow, hdecimal]
  exact bcdAmount_digitSum (by omega)

/-- After a subtraction the adjustment has 6 where the low digits borrow, and 0x60 where the numbers do. -/
theorem bcdAmount_difference : bcdAmount (BitVec.ofNat 8 ((bcd x).toNat + 256 - (bcd y).toNat - k))
    (decide ((bcd x).toNat < (bcd y).toNat + k)) (decide ((bcd x).toNat % 16 < (bcd y).toNat % 16 + k)) =
      (if x % 10 < y % 10 + k then 6 else 0) + (if x < y + k then 0x60 else 0) := by
  have hdiff : (bcd x).toNat + 256 - (bcd y).toNat - k =
      16 * (x / 10 + 15 - y / 10) + (x % 10 + 16 - y % 10 - k) := by
    rw [bcd_toNat hx, bcd_toNat hy]
    omega
  have hborrow : (bcd x).toNat < (bcd y).toNat + k ↔
      16 * (x / 10 + 15 - y / 10) + (x % 10 + 16 - y % 10 - k) < 256 := by
    rw [bcd_toNat hx, bcd_toNat hy]
    omega
  have hlow : (bcd x).toNat % 16 < (bcd y).toNat % 16 + k ↔ x % 10 + 16 - y % 10 - k < 16 := by
    rw [bcd_toNat hx, bcd_toNat hy]
    omega
  have hdecimal : x < y + k ↔ 10 * (x / 10 + 15 - y / 10) + (x % 10 + 16 - y % 10 - k) < 166 := by omega
  have hdigit : x % 10 < y % 10 + k ↔ x % 10 + 16 - y % 10 - k < 16 := by omega
  simp only [hdiff, hborrow, hlow, hdecimal, hdigit]
  exact bcdAmount_digitDifference (by omega) (by omega) (by omega)

end

section
variable (n : RegNum) (p v : Byte) (s : State)

/-- DAA of a register just written, by that value and the C and HC just written. -/
theorem exec_daaRn_written : ∃ t, exec (.daaRn n) ((s.setPsw p).setR n v) = .next t ∧
    t.r n = BitVec.ofNat 8 ((v.toNat + bcdAmount v (pswC p) (pswHC p)) % 256) ∧
    t.c = (pswC p || decide (0x60 ≤ bcdAmount v (pswC p) (pswHC p))) := by
  refine ⟨_, execDaaRn_eq n _, ?_, ?_⟩
  · simp [State.c, State.hc]
  · simp [State.c, State.hc, pswAdjusted]

/-- DAS of a register just written, by that value and the C and HC just written. -/
theorem exec_dasRn_written : ∃ t, exec (.dasRn n) ((s.setPsw p).setR n v) = .next t ∧
    t.r n = BitVec.ofNat 8 ((v.toNat + 256 - bcdAmount v (pswC p) (pswHC p)) % 256) ∧
    t.c = (pswC p || decide (0x60 ≤ bcdAmount v (pswC p) (pswHC p))) := by
  refine ⟨_, execDasRn_eq n _, ?_, ?_⟩
  · simp [State.c, State.hc]
  · simp [State.c, State.hc, pswAdjusted]

end

section
variable {i : Instr} {n m : RegNum} {x y : Nat} {k : Bool} {s : State} (hx : x < 100) (hy : y < 100)
  (hn : s.r n = bcd x) (hm : s.r m = bcd y)
include hx hy hn hm

/-- An addition of two decimal numbers, then DAA. -/
theorem execTwo_add_daaRn (hexec : exec i s = .next (arithR n (add8 (s.r n) (s.r m) k) s)) :
    ∃ t, execTwo i (.daaRn n) s = .next t ∧ t.r n = bcd ((x + y + k.toNat) % 100) ∧
      t.c = decide (100 ≤ x + y + k.toNat) := by
  have hamount := bcdAmount_sum hx hy k.toNat_le
  rw [arithR_add8, hn, hm] at hexec
  obtain ⟨t, ht, hr, hc⟩ := exec_daaRn_written n (pswSum 4 s.psw (bcd x) (bcd y) k)
    (BitVec.ofNat 8 ((bcd x).toNat + (bcd y).toNat + k.toNat)) s
  simp only [pswSum, pswC_packPsw, pswHC_packPsw, Nat.reducePow, hamount] at hr hc
  have hk := k.toNat_le
  refine ⟨t, (execTwo_of_next hexec).trans ht, hr.trans (BitVec.eq_of_toNat_eq ?_), hc.trans ?_⟩
  · simp only [bcd_toNat (Nat.mod_lt _ (by decide : 100 > 0)), BitVec.toNat_ofNat, bcd_toNat hx, bcd_toNat hy]
    split_ifs <;> omega
  · rw [bcd_toNat hx, bcd_toNat hy, ← Bool.decide_or, decide_eq_decide]
    split_ifs <;> omega

/-- A subtraction of two decimal numbers, then DAS. -/
theorem execTwo_sub_dasRn (hexec : exec i s = .next (arithR n (sub8 (s.r n) (s.r m) k) s)) :
    ∃ t, execTwo i (.dasRn n) s = .next t ∧ t.r n = bcd ((x + 100 - y - k.toNat) % 100) ∧
      t.c = decide (x < y + k.toNat) := by
  have hamount := bcdAmount_difference hx hy k.toNat_le
  rw [arithR_sub8, hn, hm, ofInt_difference _ _ k.toNat_le] at hexec
  obtain ⟨t, ht, hr, hc⟩ := exec_dasRn_written n (pswDifference 4 s.psw (bcd x) (bcd y) k)
    (BitVec.ofNat 8 ((bcd x).toNat + 256 - (bcd y).toNat - k.toNat)) s
  simp only [pswDifference, pswC_packPsw, pswHC_packPsw, Nat.reducePow, hamount] at hr hc
  have hk := k.toNat_le
  refine ⟨t, (execTwo_of_next hexec).trans ht, hr.trans (BitVec.eq_of_toNat_eq ?_), hc.trans ?_⟩
  · simp only [bcd_toNat (Nat.mod_lt _ (by decide : 100 > 0)), BitVec.toNat_ofNat, bcd_toNat hx, bcd_toNat hy]
    split_ifs <;> omega
  · rw [bcd_toNat hx, bcd_toNat hy, ← Bool.decide_or, decide_eq_decide]
    split_ifs <;> omega

end

/-! ## Bits of a byte (47_misc.md R318 to R323) -/

/-- A register byte with one bit replaced, bit by bit. -/
theorem setR_setBit_getLsbD (s : State) (n : RegNum) (b : BitVec 3) (v : Bool) (x : RegNum) (k : Nat) :
    ((s.setR n (setBit (s.r n) b.toNat v)).r x).getLsbD k = if x = n ∧ k = b.toNat then v else (s.r x).getLsbD k := by
  rw [State.setR_r]
  by_cases hx : n = x
  · subst hx
    rw [if_pos rfl, getLsbD_setBit _ b.isLt]
    simp
  · have hno : ¬(x = n ∧ k = b.toNat) := fun ⟨h, _⟩ => hx h.symm
    rw [if_neg hx, if_neg hno]

/-- What SB and RB of a register leave: Z by the old bit, then the bit. -/
def State.bitWritten (s : State) (n : RegNum) (b : BitVec 3) (v : Bool) : State :=
  (s.setPsw (pswZero s.psw (!(s.r n).getLsbD b.toNat))).setR n (setBit (s.r n) b.toNat v)

theorem exec_sbRn (n : RegNum) (b : BitVec 3) (s : State) : exec (.sbRn n b) s = .next (s.bitWritten n b true) := by
  rw [State.bitWritten, ← State.setZ_eq]
  rfl

theorem exec_rbRn (n : RegNum) (b : BitVec 3) (s : State) : exec (.rbRn n b) s = .next (s.bitWritten n b false) := by
  rw [State.bitWritten, ← State.setZ_eq]
  rfl

theorem State.bitWritten_psw (s : State) (n : RegNum) (b : BitVec 3) (v : Bool) :
    (s.bitWritten n b v).psw = pswZero s.psw (!(s.r n).getLsbD b.toNat) := by
  rw [State.bitWritten, State.setR_psw, State.setPsw_psw]

theorem State.bitWritten_onlyRegsPsw (s : State) (n : RegNum) (b : BitVec 3) (v : Bool) :
    OnlyRegsPsw s (s.bitWritten n b v) := by
  rw [OnlyRegsPsw, State.bitWritten_psw]
  rfl

/-! ## A byte of memory read, changed and written back (47_misc.md R316, R317, R319, R321) -/

theorem exec_incEA (s : State) : exec .incEA s =
    modifyByte s.ea (fun x => x + 1) (fun x => pswCarry (pswSum 4 s.psw x 1#8 false) s.c) s := by
  have hvalue : ∀ x : Byte, (add8 x 1 false).1 = x + 1 := by decide
  have hpsw : ∀ x : Byte, withArithKeepC s.psw (add8 x 1 false).2 = pswCarry (pswSum 4 s.psw x 1#8 false) s.c := fun x => by
    rw [withArithKeepC_eq_pswCarry, ← withArith_addFlags]
    rfl
  simp only [exec, execIncEA, hvalue, hpsw]

theorem exec_decEA (s : State) : exec .decEA s =
    modifyByte s.ea (fun x => x - 1) (fun x => pswCarry (pswDifference 4 s.psw x 1#8 false) s.c) s := by
  have hvalue : ∀ x : Byte, (sub8 x 1 false).1 = x - 1 := by decide
  have hpsw : ∀ x : Byte, withArithKeepC s.psw (sub8 x 1 false).2 = pswCarry (pswDifference 4 s.psw x 1#8 false) s.c :=
    fun x => by
      rw [withArithKeepC_eq_pswCarry, ← withArith_subFlags]
      rfl
  simp only [exec, execDecEA, hvalue, hpsw]

theorem exec_sbDbitadr (b : BitVec 3) (a : Word) (s : State) : exec (.sbDbitadr b a) s =
    modifyByte a (fun x => x ||| (1#8 <<< b.toNat)) (fun x => pswZero s.psw (!x.getLsbD b.toNat)) s := by
  simp only [pswZero, ← withZ_eq]
  rfl

theorem exec_rbDbitadr (b : BitVec 3) (a : Word) (s : State) : exec (.rbDbitadr b a) s =
    modifyByte a (fun x => x &&& ~~~(1#8 <<< b.toNat)) (fun x => pswZero s.psw (!x.getLsbD b.toNat)) s := by
  simp only [pswZero, ← withZ_eq]
  rfl

end Sys2Proof.Machine

namespace Sys2Proof

open Machine

/-! ## From an instruction's next state to what it does -/

/-- EXTBW writes the signed value of its low register, with Z and S (47_misc.md R315). -/
theorem extendsByte_of_exec {ws : List Word} {i : Instr} {n : RegNum} (hwf : i.wellFormed = true) (hwords : encode i = ws)
    (hexec : ∀ s, exec i s = .next (extbw n s)) : WritesPair ws i n (fun s => BitVec.ofInt 16 (s.r n).toInt)
      fun s => pswOfValue s.psw (BitVec.ofInt 16 (s.r n).toInt) :=
  writesPair_of_exec hwf hwords hexec fun _ => logicER_eq ..

/-- The instruction replaces the byte at offset `off s` by `f` of it, and PSW by `psw s` of the old byte (20_memory.md R69). -/
theorem does_of_modifyByte {ws : List Word} {i : Instr} {off : State → Word} {f : Byte → Byte} {psw : State → Byte → Byte}
    (hwf : i.wellFormed = true) (hwords : encode i = ws) (hexec : ∀ s, exec i s = modifyByte (off s) f (psw s) s) :
    Does ws i (fun s => segmentAnswers s.seg ∧ Memory.wf s.mem = true) fun s t => ∃ p, placeOf s.seg (off s) 0 = some p ∧
      (∀ a, Memory.read t.mem a = if a = p then f (Memory.read s.mem p) else Memory.read s.mem a) ∧ Memory.wf t.mem = true ∧
      t.psw = psw s (Memory.read s.mem p) ∧ t = { s.setPsw t.psw with mem := t.mem } := by
  refine ⟨decodesAs_of_encode hwf hwords, fun s ⟨hseg, hw⟩ => ?_⟩
  obtain ⟨p, hp, hnext⟩ := modifyByte_spec (off := off s) (f := f) (psw := psw s) hseg
  refine ⟨_, (hexec s).trans hnext, p, hp, fun a => ?_, Memory.wf_write hw, State.setPsw_psw .., ?_⟩
  · rw [State.setPsw_mem, State.setMem_mem, Memory.read_write hw]
    exact if_congr eq_comm rfl rfl
  · rw [State.setPsw_psw]
    rfl

/-- The three bits under a 1 select the bit of the byte whose address is the second word. -/
theorem words_memoryBit (b : BitVec 3) (y : BitVec 4) (a : Word) :
    [mkWord 0xA 0x0 (1#1 ++ b) y, a] = [(0xA0#8 ++ 1#1 ++ b ++ y : Word), a] := by
  have hword : mkWord 0xA 0x0 (1#1 ++ b) y = (0xA0#8 ++ 1#1 ++ b ++ y : Word) := by
    revert b y; decide
  rw [hword]

/-! ## The statements -/

/-- Settles O45: the product fits in a word; DIV writes the remainder and then the quotient, or takes its exception. -/
theorem multiplyAndDivide : Obligations.MultiplyAndDivide := by
  refine fun n m hn => ⟨writesPair_of_exec hn rfl (execMulERnRm_eq n m) fun _ => rfl, decodesAs_of_encode hn rfl,
    fun s _ => ?_⟩
  by_cases hzero : s.r m = 0
  · exact ⟨_, execDivERnRm_zero hzero, (if_pos hzero).mpr rfl⟩
  · refine ⟨_, execDivERnRm_nonzero hzero, (if_neg hzero).mpr ?_⟩
    exact ⟨s.divided_er n m, fun hlow hhigh => (s.divided_r n m hlow hhigh).trans (if_pos rfl),
      fun x hlow hhigh hx => (s.divided_r n m hlow hhigh).trans (if_neg hx), s.divided_psw n m, s.divided_onlyRegsPsw n m⟩

/-- Settles O46: the adjustment as a number is added or subtracted, and PSW is packed from the fields of R313 and R314. -/
theorem decimalAdjust : Obligations.DecimalAdjust := fun n =>
  ⟨writesByte_of_exec rfl (words_imm8 0x8 n 0x1F) (execDaaRn_eq n) fun _ => rfl,
    writesByte_of_exec rfl (words_imm8 0x8 n 0x3F) (execDasRn_eq n) fun _ => rfl⟩

/-- Settles O47: the adjustment is 6 for a carry or borrow of the low digits and 0x60 for one of the numbers. -/
theorem decimalArithmetic : Obligations.DecimalArithmetic := fun _ _ _ _ s hx hy hn hm =>
  ⟨execTwo_add_daaRn (k := false) hx hy hn hm rfl, execTwo_add_daaRn (k := s.c) hx hy hn hm rfl,
    execTwo_sub_dasRn (k := false) hx hy hn hm rfl, execTwo_sub_dasRn (k := s.c) hx hy hn hm rfl⟩

/-- Settles O48: each word writes the sign extension with Z and S; a word whose fields differ is outside the row. -/
theorem extendByte : Obligations.ExtendByte := by
  refine ⟨extendsByte_of_exec rfl rfl fun _ => rfl, extendsByte_of_exec rfl rfl fun _ => rfl,
    extendsByte_of_exec rfl rfl fun _ => rfl, extendsByte_of_exec rfl rfl fun _ => rfl,
    extendsByte_of_exec rfl rfl fun _ => rfl, extendsByte_of_exec rfl rfl fun _ => rfl,
    extendsByte_of_exec rfl rfl fun _ => rfl, extendsByte_of_exec rfl rfl fun _ => rfl, fun a b hne => ?_⟩
  have hword : (0x8#4 ++ a ++ 1#1 ++ b ++ 0#1 ++ 0xF#4 : Word) = mkWord 0x8 (a ++ 1#1) (b ++ 0#1) 0xF := by
    revert a b; decide
  rw [hword, decodeFirst_top8, decode8_illegal]
  revert a b
  decide

/-- Settles O49: each form reads the byte at its place, and all but TB write it back changed. -/
theorem memoryBytesChanged : Obligations.MemoryBytesChanged := by
  refine ⟨does_of_modifyByte rfl rfl exec_incEA, does_of_modifyByte rfl rfl exec_decEA,
    fun b a => does_of_modifyByte (i := .sbDbitadr b a) rfl (words_memoryBit b 0x0 a) (exec_sbDbitadr b a),
    fun b a => does_of_modifyByte (i := .rbDbitadr b a) rfl (words_memoryBit b 0x2 a) (exec_rbDbitadr b a),
    fun b a => ⟨decodesAs_of_encode rfl (words_memoryBit b 0x1 a), fun s hseg => ?_⟩⟩
  obtain ⟨p, hp⟩ := physical_of_answers hseg a
  refine ⟨_, (execTbDbitadr_eq hp).trans (congrArg _ (s.setZ_eq _)), p, (placeOf_zero s.seg a).trans hp, s.setPsw_psw _, ?_⟩
  rw [OnlyPsw, State.setPsw_psw]

/-- Settles O50: a bit form writes Z by the old bit, and SB and RB the one bit; the prefixes write DSR and the segment alone. -/
theorem registerBitsNopPrefixes : Obligations.RegisterBitsNopPrefixes :=
  ⟨fun n b => ⟨does_of_exec rfl (words_width 0xA n b 0x0) (exec_sbRn n b) fun s =>
        ⟨fun x k _ => setR_setBit_getLsbD _ n b true x k, s.bitWritten_psw n b true, s.bitWritten_onlyRegsPsw n b true⟩,
      does_of_exec rfl (words_width 0xA n b 0x2) (exec_rbRn n b) fun s =>
        ⟨fun x k _ => setR_setBit_getLsbD _ n b false x k, s.bitWritten_psw n b false, s.bitWritten_onlyRegsPsw n b false⟩,
      writesPsw_of_exec rfl (words_width 0xA n b 0x1) (fun _ => rfl) fun s => s.setZ_eq _⟩,
    leadsTo_of_exec rfl rfl fun _ => rfl,
    fun imm => leadsTo_of_exec rfl (words_imm8 0xE 0x3 imm) fun _ => rfl,
    fun _ => leadsTo_of_exec rfl rfl fun _ => rfl,
    leadsTo_of_exec rfl rfl fun _ => rfl⟩

end Sys2Proof

/-! # 60_exceptions.md: taking an exception, the host's calls, the reference platform, and that no instruction faults -/

namespace Sys2Proof.Machine

/-! ## The vector table (20_memory.md R73) -/

/-- An entry of the vector table is the word at twice its index, which does not wrap in segment 0. -/
theorem slotWord_vector (m : Memory) (index : BitVec 7) :
    slotWord m (BitVec.ofNat 16 (2 * index.toNat)) = vectorEntry m index := by
  have hindex := index.isLt
  have hlow : (BitVec.ofNat 16 (2 * index.toNat)).toNat = 2 * index.toNat := by
    rw [BitVec.toNat_ofNat]
    omega
  have hhigh : (BitVec.ofNat 16 (2 * index.toNat) + 1).toNat = 2 * index.toNat + 1 := by
    have hone : (1 : Word).toNat = 1 := rfl
    rw [BitVec.toNat_add, hlow, hone]
    omega
  rw [slotWord, vectorEntry, hlow, hhigh]

theorem dataRead_vector (m : Memory) (index : BitVec 7) :
    dataRead m 0 2 (BitVec.ofNat 16 (2 * index.toNat)) = .ok (vectorEntry m index) := by
  rw [dataRead_segment0, slotWord_vector]

/-! ## Taking an exception and returning from it (60_exceptions.md R341, R353) -/

/-- Raise writes the banks, CSR and PC, and nothing else (60_exceptions.md R341). -/
theorem takeException_frame (level : BitVec 2) (index : BitVec 7) (s : State) :
    takeException level index s =
      { s with elr := (takeException level index s).elr, ecsr := (takeException level index s).ecsr,
               epsw := (takeException level index s).epsw, csr := 0, pc := vectorEntry s.mem index &&& 0xFFFE } := by
  unfold takeException
  dsimp only
  split <;> rfl

/-- The bank of the level holds what PSW was: saved there above level 0, and kept as PSW at level 0 (60_exceptions.md R343). -/
theorem takeException_epswOf_level {level : BitVec 2} (index : BitVec 7) {s : State} (h : level = 0 → s.level = 0) :
    (takeException level index s).epswOf level = s.psw := by
  rw [takeException_epswOf]
  split
  · next hzero =>
    have hlevel : pswLevel s.psw = 0 := h hzero
    subst hzero
    rw [pswOnEntry_eq, psw_eq_pack s.psw]
    simp [hlevel]
  · exact if_pos rfl

section
variable (s : State)

@[simp] theorem returnFromException_regs : (returnFromException s).regs = s.regs := rfl
@[simp] theorem returnFromException_sp : (returnFromException s).sp = s.sp := rfl
@[simp] theorem returnFromException_ea : (returnFromException s).ea = s.ea := rfl
@[simp] theorem returnFromException_dsr : (returnFromException s).dsr = s.dsr := rfl
@[simp] theorem returnFromException_cs : (returnFromException s).cs = s.cs := rfl
@[simp] theorem returnFromException_seg : (returnFromException s).seg = s.seg := rfl
@[simp] theorem returnFromException_signal : (returnFromException s).signal = s.signal := rfl
@[simp] theorem returnFromException_stopped : (returnFromException s).stopped = s.stopped := rfl
@[simp] theorem returnFromException_mem : (returnFromException s).mem = s.mem := rfl
@[simp] theorem returnFromException_elrOf (l : BitVec 2) : (returnFromException s).elrOf l = s.elrOf l := rfl
@[simp] theorem returnFromException_ecsrOf (l : BitVec 2) : (returnFromException s).ecsrOf l = s.ecsrOf l := rfl

theorem returnFromException_epswOf {l : BitVec 2} (h : l ≠ 0) : (returnFromException s).epswOf l = s.epswOf l :=
  (State.setPsw_epswOf _ _ l).trans (if_neg h.symm)

end

/-- A return from the exception just taken. -/
def State.resumed (s : State) (level : BitVec 2) (index : BitVec 7) : State :=
  returnFromException (takeException level index s)

section
variable {s : State} {level : BitVec 2} {index : BitVec 7}

theorem State.resumed_pc (heven : s.pc.getLsbD 0 = false) : (s.resumed level index).pc = s.pc := by
  rw [State.resumed, returnFromException_pc, takeException_level, takeException_elrOf, if_pos rfl, pc_mask_of_even heven]

theorem State.resumed_csr : (s.resumed level index).csr = s.csr := by
  rw [State.resumed, returnFromException_csr, takeException_level, takeException_ecsrOf, if_pos rfl]

theorem State.resumed_psw (h : level = 0 → s.level = 0) : (s.resumed level index).psw = s.psw := by
  rw [State.resumed, returnFromException_psw, takeException_level, takeException_epswOf_level index h]

/-- A bank other than the level's comes back as it was: PSW by the return, the others because Raise left them alone. -/
theorem State.resumed_bank (h : level = 0 → s.level = 0) {l : BitVec 2} (hl : l ≠ level) :
    (s.resumed level index).elrOf l = s.elrOf l ∧ (s.resumed level index).ecsrOf l = s.ecsrOf l ∧
      (s.resumed level index).epswOf l = s.epswOf l := by
  refine ⟨?_, ?_, ?_⟩
  · rw [State.resumed, returnFromException_elrOf, takeException_elrOf, if_neg hl.symm]
  · rw [State.resumed, returnFromException_ecsrOf, takeException_ecsrOf, if_neg hl.symm]
  · by_cases hzero : l = 0
    · subst hzero
      exact State.resumed_psw h
    · rw [State.resumed, returnFromException_epswOf _ hzero, takeException_epswOf, if_neg hzero, if_neg hl.symm]

theorem State.resumed_frame (heven : s.pc.getLsbD 0 = false) : s.resumed level index =
    { s with elr := (s.resumed level index).elr, ecsr := (s.resumed level index).ecsr,
             epsw := (s.resumed level index).epsw } := by
  apply State.ext_fields
  case h2 => exact State.resumed_pc heven
  case h3 => exact State.resumed_csr
  all_goals simp [State.resumed]

end

/-! ## The accessors (60_exceptions.md R355) -/

theorem getExceptionLevel_eq (s : State) : getExceptionLevel s = s.psw.toNat % 4 := by
  rw [getExceptionLevel, State.level, pswLevel, BitVec.extractLsb'_toNat, Nat.shiftRight_zero]

/-! ## The platform's answer to a signal (60_exceptions.md R348, R362) -/

theorem deliver_none (p : Platform) {s : State} (h : s.signal = none) : p.deliver s = s := by
  rw [Platform.deliver, h]

theorem deliver_some (p : Platform) {s : State} {x : Signal} (h : s.signal = some x) :
    p.deliver s = ((p.answer x s).foldl (fun t call => call.perform t) s).setSignal none := by
  rw [Platform.deliver, h]

/-- The vector of SWI: entry 64 and up (60_exceptions.md R362). -/
theorem swi_vector (n : BitVec 6) : (64 + n.zeroExtend 7 : BitVec 7) = BitVec.ofNat 7 (64 + n.toNat) := by
  rw [BitVec.ofNat_add, BitVec.ofNat_toNat]
  rfl

theorem reference_deliver_swi {s : State} {n : BitVec 6} (h : s.signal = some (.swi n)) :
    Platform.reference.deliver s = (takeException 1 (BitVec.ofNat 7 (64 + n.toNat)) s).setSignal none := by
  rw [deliver_some _ h, ← swi_vector]
  rfl

/-- `Reset()` has already cleared the signal. -/
theorem reference_deliver_brk {s : State} (h : s.signal = some .brk) : Platform.reference.deliver s =
    if s.level.toNat ≤ 1 then (takeException 2 2 s).setSignal none else s.hostReset := by
  have hanswer : Platform.reference.answer .brk s = if s.level.toNat ≤ 1 then [.raise 2 2] else [.reset] := rfl
  rw [deliver_some _ h, hanswer]
  split <;> rfl

theorem silent_deliver (s : State) : Platform.silent.deliver s = s.setSignal none := by
  cases h : s.signal with
  | none => rw [deliver_none _ h, ← h]; rfl
  | some x => exact deliver_some _ h

/-! ## Gating of requests (60_exceptions.md R362) -/

theorem reference_take_maskable {k : BitVec 6} {s : State} {call : HostCall} :
    Platform.reference.take (.maskable k) s = some call ↔
      5 ≤ k.toNat ∧ pswMIE s.psw = true ∧ s.level.toNat ≤ 1 ∧ call = .raise 1 (BitVec.ofNat 7 k.toNat) := by
  rw [BitVec.ofNat_toNat]
  simp only [Platform.reference, referenceTake, Option.ite_none_right_eq_some, Option.some.injEq, and_assoc,
    eq_comm (a := call)]
  rfl

/-- A maskable request is not taken where its index is below 5, or where MIE or the level forbids it. -/
theorem reference_take_maskable_none {k : BitVec 6} {s : State}
    (h : 5 ≤ k.toNat → pswMIE s.psw = false ∨ 1 < s.level.toNat) : Platform.reference.take (.maskable k) s = none := by
  refine if_neg fun ⟨hindex, hmie, hlevel⟩ => ?_
  rcases h hindex with hoff | habove
  · exact Bool.false_ne_true (hoff.symm.trans hmie)
  · exact absurd hlevel (Nat.not_le.2 habove)

theorem reference_take_nonMaskable {s : State} {call : HostCall} :
    Platform.reference.take .nonMaskable s = some call ↔ s.level.toNat ≤ 2 ∧ call = .raise 2 4 := by
  simp only [Platform.reference, referenceTake, Option.ite_none_right_eq_some, Option.some.injEq, eq_comm (a := call)]

theorem reference_take_emulator {s : State} {call : HostCall} :
    Platform.reference.take .emulator s = some call ↔ call = .raise 3 3 := by
  simp only [Platform.reference, referenceTake, Option.some.injEq, eq_comm (a := call)]

/-! ## Which pending request is taken (60_exceptions.md R349 (c)) -/

/-- No two requests have the same rank. -/
theorem rank_injective : Function.Injective Request.rank := by
  intro q q' h
  match q, q', h with
  | .emulator, .emulator, _ => rfl
  | .nonMaskable, .nonMaskable, _ => rfl
  | .maskable _, .maskable _, h => exact congrArg Request.maskable (BitVec.eq_of_toNat_eq (Nat.add_left_cancel h))
  | .maskable k, .emulator, h | .maskable k, .nonMaskable, h | .emulator, .maskable k, h | .nonMaskable, .maskable k, h =>
    simp only [Request.rank] at h
    omega

/-- The order of the pending requests. -/
abbrev byRank (q q' : Request) : Prop := q.rank ≤ q'.rank

theorem insertByRank_eq (q : Request) (l : List Request) :
    insertByRank q l = l.orderedInsert byRank q := by
  induction l with
  | nil => rfl
  | cons p ps ih => simp only [insertByRank, List.orderedInsert, ih]

/-- The pending requests in order of rank are the library's insertion sort by rank. -/
theorem foldr_insertByRank (l : List Request) :
    l.foldr insertByRank [] = l.insertionSort byRank := by
  induction l with
  | nil => rfl
  | cons q l ih => rw [List.foldr_cons, ih, insertByRank_eq, List.insertionSort_cons]

/-- A platform takes the pending request that it takes and before which in rank it takes none. -/
theorem interrupt_of_first {p : Platform} {pending : List Request} {s : State} {q : Request} {call : HostCall}
    (hq : q ∈ pending) (htake : p.take q s = some call)
    (hfirst : ∀ q' ∈ pending, q'.rank < q.rank → p.take q' s = none) : p.interrupt pending s = call.perform s := by
  have hfind : (pending.foldr insertByRank []).findSome? (fun q' => p.take q' s) = some call := by
    rw [foldr_insertByRank, List.findSome?_eq_some_iff]
    obtain ⟨before, after, hsplit, hnew⟩ := List.eq_append_cons_of_mem ((List.mem_insertionSort byRank).2 hq)
    refine ⟨before, q, after, hsplit, htake, fun q' hbefore => ?_⟩
    have hpending : q' ∈ pending := by
      rw [← List.mem_insertionSort byRank, hsplit]
      exact List.mem_append_left _ hbefore
    have hsorted := List.pairwise_insertionSort byRank pending
    rw [hsplit, List.pairwise_append] at hsorted
    obtain ⟨-, -, hle⟩ := hsorted
    have hne : q' ≠ q := fun e => hnew (e ▸ hbefore)
    exact hfirst q' hpending ((hle q' hbefore q List.mem_cons_self).lt_of_ne (rank_injective.ne hne))
  rw [Platform.interrupt, hfind]

/-- A platform that takes none of the pending requests leaves the state as it is. -/
theorem interrupt_of_none {p : Platform} {pending : List Request} {s : State}
    (hnone : ∀ q ∈ pending, p.take q s = none) : p.interrupt pending s = s := by
  have hfind : (pending.foldr insertByRank []).findSome? (fun q => p.take q s) = none := by
    rw [foldr_insertByRank, List.findSome?_eq_none_iff]
    exact fun q hq => hnone q ((List.mem_insertionSort _).1 hq)
  rw [Platform.interrupt, hfind]

section
variable {pending : List Request} {s : State}

theorem reference_interrupt_emulator (h : .emulator ∈ pending) :
    Platform.reference.interrupt pending s = takeException 3 3 s :=
  interrupt_of_first h (reference_take_emulator.2 rfl) fun _ _ hlt => absurd hlt (Nat.not_lt_zero _)

theorem reference_interrupt_nonMaskable (hno : .emulator ∉ pending) (h : .nonMaskable ∈ pending)
    (hlevel : s.level.toNat ≤ 2) : Platform.reference.interrupt pending s = takeException 2 4 s := by
  refine interrupt_of_first h (reference_take_nonMaskable.2 ⟨hlevel, rfl⟩) fun q hq hlt => ?_
  cases q with
  | emulator => exact absurd hq hno
  | nonMaskable => exact absurd hlt (Nat.lt_irrefl _)
  | maskable j => exact absurd hlt (Nat.not_lt.2 (Nat.le_add_right_of_le (by decide : 1 ≤ 2)))

/-- Below the lowest index that can be enabled, no maskable request is taken. -/
theorem reference_interrupt_maskable {k : BitVec 6} (hnoEmulator : .emulator ∉ pending)
    (hnoNonMaskable : .nonMaskable ∉ pending) (hmie : pswMIE s.psw = true) (hlevel : s.level.toNat ≤ 1)
    (h : .maskable k ∈ pending) (hindex : 5 ≤ k.toNat)
    (hlowest : ∀ j : BitVec 6, .maskable j ∈ pending → 5 ≤ j.toNat → k.toNat ≤ j.toNat) :
    Platform.reference.interrupt pending s = takeException 1 (BitVec.ofNat 7 k.toNat) s := by
  refine interrupt_of_first h (reference_take_maskable.2 ⟨hindex, hmie, hlevel, rfl⟩) fun q hq hlt => ?_
  cases q with
  | emulator => exact absurd hq hnoEmulator
  | nonMaskable => exact absurd hq hnoNonMaskable
  | maskable j =>
    have hjk : j.toNat < k.toNat := Nat.lt_of_add_lt_add_left hlt
    exact reference_take_maskable_none fun hj => absurd (hlowest j hq hj) (Nat.not_le.2 hjk)

theorem reference_interrupt_none (hno : .emulator ∉ pending) (hnonMaskable : .nonMaskable ∈ pending → 2 < s.level.toNat)
    (hmaskable : ∀ k : BitVec 6, .maskable k ∈ pending → 5 ≤ k.toNat → pswMIE s.psw = false ∨ 1 < s.level.toNat) :
    Platform.reference.interrupt pending s = s := by
  refine interrupt_of_none fun q hq => ?_
  cases q with
  | emulator => exact absurd hq hno
  | nonMaskable => exact if_neg (Nat.not_le.2 (hnonMaskable hq))
  | maskable k => exact reference_take_maskable_none (hmaskable k hq)

end

/-! ## Every instruction completes (60_exceptions.md R340) -/

theorem pushWords_completes : ∀ (vs : List Word) (s : State), ∃ t, pushWords vs s = .ok t
  | [], s => ⟨s, rfl⟩
  | v :: vs, s => by
    obtain ⟨m, hpush, -⟩ := push16_spec v s
    obtain ⟨t, hrest⟩ := pushWords_completes vs ((s.setSp (s.sp - 2)).setMem m)
    exact ⟨t, by rw [pushWords_cons, hpush]; exact hrest⟩

theorem pushGroup_completes {k : Nat} (hk : k ≤ 16) (n : RegNum) (s : State) : ∃ t, finish (pushGroup k n s) = .next t := by
  obtain ⟨m, hpush, -⟩ := pushGroup_spec hk n s
  exact ⟨_, finish_eq_next.2 hpush⟩

theorem popGroup_completes (k : Nat) (n : RegNum) (s : State) : ∃ t, finish (popGroup k n s) = .next t := by
  obtain ⟨v, -, hpop⟩ := popGroup_spec k n s
  exact ⟨_, finish_eq_next.2 hpop⟩

theorem execDivERnRm_completes (n m : RegNum) (s : State) : ∃ t, execDivERnRm n m s = .next t := by
  by_cases h : s.r m = 0
  · exact ⟨_, execDivERnRm_zero h⟩
  · exact ⟨_, execDivERnRm_nonzero h⟩

/-- The stack lies in segment 0, which always answers; every other instruction without a data access is an update of the
state. -/
theorem exec_completes {i : Instr} {s : State} (h : dataOffset s i = none) : ∃ t, exec i s = .next t := by
  cases i with
  | divERnRm n m => exact execDivERnRm_completes n m s
  | pushRn | pushERn | pushXRn | pushQRn => exact pushGroup_completes (by decide) _ s
  | popRn | popERn | popXRn | popQRn => exact popGroup_completes _ _ s
  | pushList l e p a =>
    obtain ⟨t, hpush⟩ := pushWords_completes (pushedItems l e p a s) s
    exact ⟨t, (execPushList_eq l e p a s).trans (finish_eq_next.2 hpush)⟩
  | popList l e p a => exact ⟨_, execPopList_eq l e p a s⟩
  | lERnEA | lERnEAInc | lERnERm | lERnDisp16ERm | lERnDisp6BP | lERnDisp6FP | lERnDadr
  | lRnEA | lRnEAInc | lRnERm | lRnDisp16ERm | lRnDisp6BP | lRnDisp6FP | lRnDadr
  | lXRnEA | lXRnEAInc | lQRnEA | lQRnEAInc
  | stERnEA | stERnEAInc | stERnERm | stERnDisp16ERm | stERnDisp6BP | stERnDisp6FP | stERnDadr
  | stRnEA | stRnEAInc | stRnERm | stRnDisp16ERm | stRnDisp6BP | stRnDisp6FP | stRnDadr
  | stXRnEA | stXRnEAInc | stQRnEA | stQRnEAInc
  | incEA | decEA | sbDbitadr | rbDbitadr | tbDbitadr => exact absurd h (Option.some_ne_none _)
  | _ => exact ⟨_, rfl⟩

/-- An instruction completes, or its data access is refused (60_exceptions.md R354, 20_memory.md R75). -/
theorem exec_next_or_refused (i : Instr) (s : State) : (∃ t, exec i s = .next t) ∨ ∃ r, exec i s = .refused r := by
  cases hoff : dataOffset s i with
  | none => exact .inl (exec_completes hoff)
  | some off =>
    by_cases hseg : segmentAnswers s.seg
    · exact .inl ((exec_access hoff).completes hseg)
    · exact .inr ⟨_, (exec_access hoff).refused hseg⟩

theorem exec_ne_fault (i : Instr) (s : State) (f : Fault) : exec i s ≠ .fault f := by
  rcases exec_next_or_refused i s with ⟨t, h⟩ | ⟨r, h⟩ <;> rw [h] <;> exact nofun

end Sys2Proof.Machine

namespace Sys2Proof

open Machine

/-! ## The statements -/

/-- Settles O44: the host's arguments are checked, and each accessor reads its bits of PSW. -/
theorem hostCalls : Obligations.HostCalls :=
  ⟨fun _ _ _ hlevel hindex => if_pos ⟨hlevel, hindex⟩, fun _ _ _ hout => if_neg (by omega),
    fun s => ⟨getExceptionLevel_eq s, rfl⟩⟩

/-- Settles O41: RTI reads the bank that Raise has just written. -/
theorem raiseThenRti : Obligations.RaiseThenRti := fun level index s heven hlevel =>
  ⟨s.resumed level index, exec_rti _, State.resumed_pc heven, State.resumed_csr, State.resumed_psw hlevel,
    fun _ hl => State.resumed_bank hlevel hl, State.resumed_frame heven⟩

/-- Settles O43: the answers and the gating are those of the platform's functions; a gap takes the first request in rank
that the gating admits. -/
theorem referencePlatform : Obligations.ReferencePlatform :=
  ⟨fun _ => deliver_none _, fun _ _ => reference_deliver_swi, fun _ => reference_deliver_brk,
    fun _ _ _ => reference_take_maskable, fun _ _ => reference_take_nonMaskable, fun _ _ => reference_take_emulator,
    silent_deliver, fun _ _ => ⟨reference_interrupt_emulator, reference_interrupt_nonMaskable,
      fun _ => reference_interrupt_maskable, reference_interrupt_none⟩⟩

/-- Settles O55: an instruction with a data access ends as the access does, and every other completes. -/
theorem everyInstructionCompletes : Obligations.EveryInstructionCompletes := fun i s => by
  refine ⟨fun hseg => ?_, exec_completes, exec_ne_fault i s⟩
  cases hoff : dataOffset s i with
  | none => exact exec_completes hoff
  | some off => exact (exec_access hoff).completes hseg

/-- Settles O39: the banks are written one cell after the other, and PSW is packed from the fields of R341 and R343. -/
theorem takeException : Obligations.TakeException := by
  intro level index s t
  refine ⟨fun l => (takeException_elrOf level index s l).trans (if_congr eq_comm rfl rfl),
    fun l => (takeException_ecsrOf level index s l).trans (if_congr eq_comm rfl rfl), fun l hl => ?_,
    (takeException_psw level index s).trans (pswOnEntry_eq level s.psw), takeException_csr level index s,
    dataRead_vector s.mem index, takeException_pc level index s, ?_⟩
  · exact (takeException_epswOf level index s l).trans ((if_neg hl).trans (if_congr eq_comm rfl rfl))
  · exact takeException_frame level index s

end Sys2Proof

/-! # 70_reset_and_hazards.md: `Reset()`, and the prefixes of a step -/

namespace Sys2Proof.Machine

/-! ## A code segment of prefixes only (47_misc.md R333) -/

/-- The words of the code segment are DSR prefixes, all of them. -/
def OnlyPrefixes (m : Memory) (csr : Byte) : Prop := ∀ off : Word, off.getLsbD 0 = false →
  ∃ w p, dataRead m csr 2 off = .ok w ∧ decodeFirst w = .whole p ∧ p.isDsrPrefix = true

/-- Prefixes change neither the memory nor CSR, so one follows the other, whatever the bound on their number. -/
theorem runStep_onlyPrefixes (fuel : Nat) {s : State} (heven : s.pc.getLsbD 0 = false) (h : OnlyPrefixes s.mem s.csr) :
    runStep fuel s = .fault .endlessPrefixes := by
  induction fuel generalizing s with
  | zero => exact runStep_zero s
  | succ fuel ih =>
    obtain ⟨w, p, hread, hdecode, hp⟩ := h s.pc heven
    have hfetch : fetchInstr s = .next (p, s.advance 2) :=
      setPc_two_of_even heven ▸ fetchInstr_whole (fetch16_of_dataRead hread) hdecode
    rw [runStep_prefix hfetch (exec_prefix hp _) hp]
    exact ih (even_advance heven 1) h

/-! ## Prefixes, then the instruction that ends the step (47_misc.md R333) -/

/-- Between its prefixes and its end a step executes one instruction, with PC past all the bytes. -/
theorem runStep_prefixes_last {ps : List Instr} {i : Instr} (hps : ∀ p ∈ ps, p.isDsrPrefix = true)
    (hwf : i.wellFormed = true) (hi : i.isDsrPrefix = false) (fuel : Nat) {s : State} (heven : s.pc.getLsbD 0 = false)
    (h : BytesAtPc s (ps.flatMap encodeBytes ++ encodeBytes i)) :
    runStep (ps.length + (fuel + 1)) s = onNext (fun t => t.setSeg 0) (exec i
      ((s.advance (2 * ps.length + (encodeBytes i).length)).withData (ps.foldl (prefixEffect s) (s.dsr, s.seg)))) := by
  have hbytes : BytesAtPc (s.advance (2 * ps.length)) (encodeBytes i) :=
    flatMap_encodeBytes_length hps ▸ bytesAtPc_advance h
  have hfetch := fetchInstr_bytes (readsAs_encode hwf)
    (s := (s.advance (2 * ps.length)).withData (ps.foldl (prefixEffect s) (s.dsr, s.seg)))
    (even_advance heven ps.length) hbytes
  rw [State.withData_advance, State.advance_advance] at hfetch
  rw [runStep_prefixes hps _ heven (bytesAtPc_of_append h), runStep_last_onNext hfetch hi]
  rfl

end Sys2Proof.Machine

namespace Sys2Proof

open Machine

/-! ## The statements -/

/-- Settles O7: the prefixes are executed, then the instruction after them ends the step; without one the bound is reached. -/
theorem stepRunsPrefixes : Obligations.StepRunsPrefixes := by
  refine ⟨fun s ps i hrun heven hps hcount hwf hi h => ?_, fun s hrun heven h => ?_⟩
  · have hfuel : maxStepInstrs = ps.length + (0x8000 - ps.length + 1) := by
      rw [maxStepInstrs]; omega
    rw [step_running hrun, hfuel]
    exact runStep_prefixes_last (s := (s.setSeg 0).setSignal none) hps hwf hi _ heven h
  · rw [step_running hrun]
    exact runStep_onlyPrefixes maxStepInstrs (s := (s.setSeg 0).setSignal none) heven h

/-- Settles O51: SP and PC are the words at bytes 0 and 2 of segment 0, and `Reset()` writes no other cell than those named. -/
theorem resetSequence : Obligations.ResetSequence := fun s =>
  ⟨dataRead_vector s.mem 0, ⟨_, dataRead_vector s.mem 1, rfl⟩, rfl, State.setPsw_psw s 0x00, rfl, rfl, rfl, rfl, rfl,
    fun l hl => (State.setPsw_epswOf s 0x00 l).trans (if_neg hl.symm), rfl⟩

end Sys2Proof
